-- ==== Sys2Proof/Word.lean ====
section
/-! DEFINITION. The bit-vector types of SMCORE: 32-bit words (00_scope.md R6, `XLEN`), bytes, and the
128-bit blocks of the GHASH engine. Everything computed on them stands in Machine/Bits.lean. -/

namespace Sys2Proof

/-- A register or bus value, 32 bits (00_scope.md R6, R7). -/
abbrev Word := BitVec 32

/-- One byte of a byte string (00_scope.md R9). -/
abbrev Byte := BitVec 8

/-- A 128-bit value held in four registers, first register in the top bits (10_state.md R45). -/
abbrev Block128 := BitVec 128

end Sys2Proof
end

