-- ==== Sys2Proof/Config.lean ====
section
/-! DEFINITION. What the spec leaves OPEN: the base address of the window and the arbitrary values read from
registers a command in flight is writing. Neither constant has a body, so no proof can see its value. -/

namespace Sys2Proof.Config

/-- The page number of `BASE`: `BASE` is OPEN, "a multiple of 0x1000" (00_scope.md R6; log 7). -/
opaque basePage : Nat

/-- `BASE`, the base address of the register window (00_scope.md R6; log 7). Irreducible, so that no proof search
counts the window's bytes one by one. -/
@[irreducible] def base : Nat := basePage * 0x1000

/-- The window size in bytes (00_scope.md R6). -/
def windowSize : Nat := 0x1000

/-- FREE VALUE (log 6): the `n`-th arbitrary 32-bit value that a read of the in-flight command's write set
returns (40_system.md R107, "A model draws a fresh value for each such read, under no law"). -/
opaque inflightRead : Nat → Word

end Sys2Proof.Config
end

