-- ==== Sys2Proof/Syntax.lean ====
section
/-! DEFINITION. The command words of SMCORE as syntax: one constructor of `Instr` for each row of
spec/opcode_table.json (30_encoding.md R82), with the operand its `ARG` form gives it (R83, R84). -/

namespace Sys2Proof

/-- The domain prefix of `SM3_INIT`, the legal values of `PFX = w[9:8]` (30_encoding.md R84). -/
inductive Pfx
  /-- `PFX = 0`: plain SM3, no prefix byte. -/
  | plain
  /-- `PFX = 1`: the Merkle leaf prefix, byte 0x00. -/
  | leaf
  /-- `PFX = 2`: the Merkle node prefix, byte 0x01. -/
  | node
  deriving DecidableEq, Repr

/-- The twelve operations of the opcode map (30_encoding.md R82). -/
inductive Op
  | nop | zeroize | sm4Keyexp | sm4Enc | sm4Dec | sm3Init | sm3Update | sm3Final | sm3Compress | merkleNode
  | gfMul | ghashUpdate
  deriving DecidableEq, Repr

/-- A command with its operand (30_encoding.md R82 to R84). A byte count is the field as it stands in the
word, 7 or 5 bits; which counts are legal is `WellFormed`'s. -/
inductive Instr
  | nop
  | zeroize
  | sm4Keyexp
  | sm4Enc
  | sm4Dec
  | sm3Init (pfx : Pfx)
  | sm3Update (n : BitVec 7)
  | sm3Final
  | sm3Compress
  | merkleNode
  | gfMul
  | ghashUpdate (n : BitVec 5)
  deriving DecidableEq, Repr

/-- The operation a command performs. -/
def Instr.op : Instr → Op
  | .nop => .nop
  | .zeroize => .zeroize
  | .sm4Keyexp => .sm4Keyexp
  | .sm4Enc => .sm4Enc
  | .sm4Dec => .sm4Dec
  | .sm3Init _ => .sm3Init
  | .sm3Update _ => .sm3Update
  | .sm3Final => .sm3Final
  | .sm3Compress => .sm3Compress
  | .merkleNode => .merkleNode
  | .gfMul => .gfMul
  | .ghashUpdate _ => .ghashUpdate

end Sys2Proof
end

