-- ==== Sys2Proof/Machine/State.lean ====
section
/-! DEFINITION. The state of SMCORE as plain data: every register and every piece of hidden state of 10_state.md
(R21 to R47), each under its own name, and three fields of the model's own (`events`, `rdata`, `draws`); the
register map's names; the events that move the machine; the reasons a step may stop; the state after reset. -/

namespace Sys2Proof.Machine

/-- The names of the register map (10_state.md R21), a group's words by index. -/
inductive Reg
  | id
  | ctrl
  | status
  | cmd
  | sm4Key (i : Fin 4)
  | sm4Din (i : Fin 4)
  | sm4Dout (i : Fin 4)
  | sm3V (i : Fin 8)
  | sm3CntLo
  | sm3CntHi
  | sm3Msg (i : Fin 16)
  | ghH (i : Fin 4)
  | ghX (i : Fin 4)
  | ghIn (i : Fin 4)
  deriving DecidableEq, Repr

/-- The errors SMCORE records (60_exceptions.md R252). -/
inductive ErrorKind
  | illegalOpcode
  | illegalArgument
  | keyNotValid
  | writeWhileBusy
  deriving DecidableEq, Repr

/-- `INFLIGHT` when it is not none: the accepted command's opcode and `w[15:8]` (10_state.md R42). -/
structure Inflight where
  op : Byte
  arg : Byte
  deriving DecidableEq, Repr

/-- What may happen next at SMCORE's boundary (00_scope.md R12, 40_system.md R114). Addresses are the host's,
not offsets; `bytes` is the access width. -/
inductive Event
  /-- a host bus read (40_system.md R100) -/
  | read (addr bytes : Nat)
  /-- a host bus write of `value` (40_system.md R101) -/
  | write (addr bytes : Nat) (value : Word)
  /-- the engine takes its completion step here, if a command is in flight (40_system.md R106) -/
  | complete
  /-- the reset input (70_reset_and_hazards.md R280) -/
  | reset
  deriving DecidableEq, Repr

/-- The state the SM3 stream path works on: chaining state, byte counter, partial-block buffer
(10_state.md R35, R36, R44). -/
structure HashState where
  v : Vector Word 8
  cnt : BitVec 64
  buf : Vector Byte 64
  deriving DecidableEq, Repr

/-- The state of SMCORE. -/
structure State where
  /-- `CTRL.IE` (10_state.md R23) -/
  ie : Bool
  /-- `STATUS.BUSY` (R25) -/
  busy : Bool
  /-- `STATUS.DONE` (R26) -/
  done : Bool
  /-- `STATUS.ERR` (R27) -/
  err : Bool
  /-- `STATUS.KEYVALID` (R28) -/
  keyValid : Bool
  /-- `STATUS.ERRCODE` (R29) -/
  errCode : BitVec 4
  /-- `SM4_KEY0..3`, write-only (R31) -/
  sm4Key : Vector Word 4
  /-- `SM4_DIN0..3` (R32) -/
  sm4Din : Vector Word 4
  /-- `SM4_DOUT0..3` (R33) -/
  sm4Dout : Vector Word 4
  /-- `RK[0..32]`, hidden (R34) -/
  rk : Vector Word 32
  /-- `SM3_V0..7` (R35) -/
  sm3V : Vector Word 8
  /-- `CNT`, that is `SM3_CNTHI ‖ SM3_CNTLO` (R36, R45) -/
  cnt : BitVec 64
  /-- `BUF[0..64]`, hidden (R44) -/
  buf : Vector Byte 64
  /-- `SM3_MSG0..15` (R37) -/
  sm3Msg : Vector Word 16
  /-- `H`, that is `GH_H0 ‖ .. ‖ GH_H3` (R38, R45) -/
  ghH : Block128
  /-- `X`, that is `GH_X0 ‖ .. ‖ GH_X3` (R39, R45) -/
  ghX : Block128
  /-- `IN`, that is `GH_IN0 ‖ .. ‖ GH_IN3` (R40, R45) -/
  ghIn : Block128
  /-- `INFLIGHT`, hidden (R42) -/
  inflight : Option Inflight
  /-- the model's own: the events still to come, oldest first (log 1) -/
  events : List Event
  /-- the model's own: the value last put on the read-data port (log 5) -/
  rdata : Word
  /-- the model's own: how many arbitrary values reads in flight have drawn (log 6) -/
  draws : Nat
  deriving DecidableEq, Repr

/-- Why a step may fault. -/
inductive Fault
  /-- Raised by a bus access that is not 32 bits wide or not 4-byte aligned: `BUS_BAD_ACCESS`, "A model treats
  it as a fault and does not continue the run" (20_memory.md R64, R65; log 8). Safe. -/
  | busBadAccess
  /-- Raised by the engine's step when INFLIGHT holds no legal command, which no accepted CMD write leaves
  there (40_system.md R103; log 11). Safe. -/
  | illegalInflight
  deriving DecidableEq, Repr

/-- Why a step may be refused. -/
inductive Refusal
  /-- An instruction that has no meaning in the model, by its mnemonic. No arm of `exec` answers it. Safe. -/
  | notModelled (mnemonic : String)
  /-- Raised by a bus access outside the window: "What the platform does with an address outside the window is
  not SMCORE's behaviour" (20_memory.md R61; log 9). Safe. -/
  | outsideWindow
  deriving DecidableEq, Repr

/-- The machine right after reset (10_state.md R46), with nothing yet to come (logs 1, 5, 6). -/
def State.reset : State where
  ie := false
  busy := false
  done := false
  err := false
  keyValid := false
  errCode := 0#4
  sm4Key := Vector.replicate 4 0#32
  sm4Din := Vector.replicate 4 0#32
  sm4Dout := Vector.replicate 4 0#32
  rk := Vector.replicate 32 0#32
  sm3V := Vector.replicate 8 0#32
  cnt := 0#64
  buf := Vector.replicate 64 0#8
  sm3Msg := Vector.replicate 16 0#32
  ghH := 0#128
  ghX := 0#128
  ghIn := 0#128
  inflight := none
  events := []
  rdata := 0#32
  draws := 0

end Sys2Proof.Machine
end

