-- ==== Sys2Proof/Machine/Flags.lean ====
section
/-! DEFINITION. The STATUS and CTRL registers: what a read returns (10_state.md R23, R24), the error codes
(60_exceptions.md R252), the write-one-to-clear of STATUS (40_system.md R112), the CTRL write (R113) and the
interrupt line (60_exceptions.md R256). SMCORE has no arithmetic flags (10_state.md R48). -/

namespace Sys2Proof.Machine

/-- A flag as a 32-bit value. -/
def flagWord (b : Bool) : Word := if b then 1#32 else 0#32

/-- `BUSY | DONE<<1 | ERR<<2 | KEYVALID<<3 | ERRCODE<<8` (10_state.md R24). -/
def State.statusWord (s : State) : Word :=
  flagWord s.busy ||| (flagWord s.done <<< 1) ||| (flagWord s.err <<< 2) ||| (flagWord s.keyValid <<< 3) |||
    (s.errCode.setWidth 32 <<< 8)

/-- `zext_32(x[CTRL].IE)` (40_system.md R100). -/
def State.ctrlWord (s : State) : Word := flagWord s.ie

/-- The code of an error (60_exceptions.md R252). -/
def ErrorKind.code : ErrorKind → BitVec 4
  | .illegalOpcode => 1#4
  | .illegalArgument => 2#4
  | .keyNotValid => 3#4
  | .writeWhileBusy => 4#4

/-- A STATUS write (40_system.md R112): bit 1 clears DONE, bit 2 clears ERR and ERRCODE. -/
def State.writeStatus (v : Word) (s : State) : State :=
  { s with
    done := s.done && !v.getLsbD 1
    err := s.err && !v.getLsbD 2
    errCode := if v.getLsbD 2 then 0#4 else s.errCode }

/-- A CTRL write (40_system.md R113). -/
def State.writeCtrl (v : Word) (s : State) : State := { s with ie := v.getLsbD 0 }

/-- The interrupt output (10_state.md R43, 60_exceptions.md R256). -/
def State.irq (s : State) : Bool := s.ie && (s.done || s.err)

end Sys2Proof.Machine
end

