-- ==== Sys2Proof/WellFormed.lean ====
section
/-! DEFINITION. Which commands are legal: the byte counts of 30_encoding.md R83. The other forms have only
legal values (`PFX = 3` is no value of `Pfx`, and the zero form has no operand). -/

namespace Sys2Proof

/-- The legal field values of 30_encoding.md R83: `N7` from 1 to 64, `N5` from 1 to 16. -/
def Instr.wellFormed : Instr → Bool
  | .sm3Update n => decide (1 ≤ n.toNat) && decide (n.toNat ≤ 64)
  | .ghashUpdate n => decide (1 ≤ n.toNat) && decide (n.toNat ≤ 16)
  | .nop => true
  | .zeroize => true
  | .sm4Keyexp => true
  | .sm4Enc => true
  | .sm4Dec => true
  | .sm3Init _ => true
  | .sm3Final => true
  | .sm3Compress => true
  | .merkleNode => true
  | .gfMul => true

/-- A command whose operand is legal. -/
abbrev WellFormed (i : Instr) : Prop := i.wellFormed = true

end Sys2Proof
end

