-- ==== Sys2Proof/Decode.lean ====
section
/-! DEFINITION. The decoder of `CMD` writes and the encoder, both from the tables of 30_encoding.md (R80 to R87).
Decoding is total: a word is a command, or is refused as ILLEGAL_OPCODE or ILLEGAL_ARGUMENT (R85). The fourth
check of 40_system.md R103, the key's, is no part of the word and stands in Machine/Ops.lean. -/

namespace Sys2Proof

/-- What a word written to `CMD` spells (30_encoding.md R85). -/
inductive Decoded
  /-- a defined command with a legal operand -/
  | instr (i : Instr)
  /-- `OP` is in no row of 30_encoding.md R82 -/
  | illegalOpcode
  /-- `OP` is defined, and a bit that must be 0 is set or the field is outside its legal values -/
  | illegalArgument
  deriving DecidableEq, Repr

/-- One row of the match and mask table of 30_encoding.md R87. -/
structure OpcodeRow where
  op : Op
  pattern : Word
  mask : Word
  deriving DecidableEq, Repr

/-- The match and mask table (30_encoding.md R87, opcode_table.json). -/
def opcodeTable : List OpcodeRow :=
  [⟨.nop,         0x00000000#32, 0xFFFFFFFF#32⟩,
   ⟨.zeroize,     0x00000001#32, 0xFFFFFFFF#32⟩,
   ⟨.sm4Keyexp,   0x00000010#32, 0xFFFFFFFF#32⟩,
   ⟨.sm4Enc,      0x00000011#32, 0xFFFFFFFF#32⟩,
   ⟨.sm4Dec,      0x00000012#32, 0xFFFFFFFF#32⟩,
   ⟨.sm3Init,     0x00000020#32, 0xFFFFFCFF#32⟩,
   ⟨.sm3Update,   0x00000021#32, 0xFFFF80FF#32⟩,
   ⟨.sm3Final,    0x00000022#32, 0xFFFFFFFF#32⟩,
   ⟨.sm3Compress, 0x00000023#32, 0xFFFFFFFF#32⟩,
   ⟨.merkleNode,  0x00000028#32, 0xFFFFFFFF#32⟩,
   ⟨.gfMul,       0x00000030#32, 0xFFFFFFFF#32⟩,
   ⟨.ghashUpdate, 0x00000031#32, 0xFFFFE0FF#32⟩]

/-- `OP = w[7:0]` (30_encoding.md R80). -/
def opField (w : Word) : Byte := w.extractLsb' 0 8

/-- `ARG = w[15:8]` (30_encoding.md R80). -/
def argField (w : Word) : Byte := w.extractLsb' 8 8

/-- The row of the opcode map that `OP` selects, if any (30_encoding.md R82). -/
def rowOf (opcode : Byte) : Option OpcodeRow :=
  opcodeTable.find? (fun r => opField r.pattern == opcode)

/-- The operation an opcode byte names (30_encoding.md R82). -/
def opOf (opcode : Byte) : Option Op := (rowOf opcode).map OpcodeRow.op

/-- `PFX = w[9:8]`: 0, 1 and 2 are legal (30_encoding.md R83, R84). -/
def decodePfx (field : BitVec 2) : Option Pfx :=
  if field = 0#2 then some .plain
  else if field = 1#2 then some .leaf
  else if field = 2#2 then some .node
  else none

/-- The command of operation `op` with the operand that word `w` holds, before its legal values are checked
(30_encoding.md R83, R84): `PFX = w[9:8]`, `N7 = w[14:8]`, `N5 = w[12:8]`. -/
def fieldsOf (op : Op) (w : Word) : Option Instr :=
  match op with
  | .sm3Init => (decodePfx (w.extractLsb' 8 2)).map Instr.sm3Init
  | .sm3Update => some (.sm3Update (w.extractLsb' 8 7))
  | .ghashUpdate => some (.ghashUpdate (w.extractLsb' 8 5))
  | .nop => some .nop
  | .zeroize => some .zeroize
  | .sm4Keyexp => some .sm4Keyexp
  | .sm4Enc => some .sm4Enc
  | .sm4Dec => some .sm4Dec
  | .sm3Final => some .sm3Final
  | .sm3Compress => some .sm3Compress
  | .merkleNode => some .merkleNode
  | .gfMul => some .gfMul

/-- The decoder: opcode, then the bits that must be 0, then the field's legal values, in the order of
40_system.md R103. -/
def decode (w : Word) : Decoded :=
  match rowOf (opField w) with
  | none => .illegalOpcode
  | some row =>
    if w &&& row.mask = row.pattern then
      match fieldsOf row.op w with
      | none => .illegalArgument
      | some i => if i.wellFormed then .instr i else .illegalArgument
    else .illegalArgument

/-- The decoder as the host numbers an instruction's bits: the first `nbits` bits of `w`, all others 0. -/
def decodeTableWord (nbits w : Nat) : Option Instr :=
  match decode (BitVec.ofNat 32 (w % 2 ^ nbits)) with
  | .instr i => some i
  | .illegalOpcode => none
  | .illegalArgument => none

/-- `PFX` of a domain prefix (30_encoding.md R84). -/
def encodePfx : Pfx → BitVec 2
  | .plain => 0#2
  | .leaf => 1#2
  | .node => 2#2

/-- The word of a command (30_encoding.md R82, R83): the opcode in bits 7:0, the field from bit 8 up. -/
def encode : Instr → Word
  | .nop => 0x00#32
  | .zeroize => 0x01#32
  | .sm4Keyexp => 0x10#32
  | .sm4Enc => 0x11#32
  | .sm4Dec => 0x12#32
  | .sm3Init p => 0x20#32 ||| ((encodePfx p).setWidth 32 <<< 8)
  | .sm3Update n => 0x21#32 ||| (n.setWidth 32 <<< 8)
  | .sm3Final => 0x22#32
  | .sm3Compress => 0x23#32
  | .merkleNode => 0x28#32
  | .gfMul => 0x30#32
  | .ghashUpdate n => 0x31#32 ||| (n.setWidth 32 <<< 8)

end Sys2Proof
end

