-- ==== Sys2Proof/Machine/Bits.lean ====
section
/-! DEFINITION. The word and byte operators of 00_scope.md R9 and R10: rotation, and the big-endian conversions
between words and byte strings. -/

namespace Sys2Proof.Machine

/-- `rotl(x, n)`, with `rotl(x, 0) = x` (00_scope.md R10). -/
def rotl (x : Word) (n : Nat) : Word := (x <<< (n % 32)) ||| (x >>> (32 - n % 32))

/-- The word of four bytes, the first in bits 31:24 (00_scope.md R9). -/
def wordOfBytes (b0 b1 b2 b3 : Byte) : Word := b0 ++ b1 ++ b2 ++ b3

/-- `BE32(b, k)`, word `k` of a byte string (00_scope.md R9). -/
def be32 (b : List Byte) (k : Nat) : Word :=
  wordOfBytes (b.getD (4 * k) 0#8) (b.getD (4 * k + 1) 0#8) (b.getD (4 * k + 2) 0#8) (b.getD (4 * k + 3) 0#8)

/-- Byte `j` of a word, byte 0 the most significant: `w[31 - 8j : 24 - 8j]` (00_scope.md R9). -/
def byteOf (w : Word) (j : Nat) : Byte := w.extractLsb' (24 - 8 * j) 8

/-- The four bytes of a word, most significant first (00_scope.md R9). -/
def bytesOfWord (w : Word) : List Byte := [byteOf w 0, byteOf w 1, byteOf w 2, byteOf w 3]

/-- `BYTES(w0 .. wn-1)` (00_scope.md R9). -/
def bytesOf (ws : List Word) : List Byte := ws.flatMap bytesOfWord

/-- The 8 bytes of a 64-bit value, most significant first (42_sm3.md R179). -/
def bytesOf64 (x : BitVec 64) : List Byte := bytesOf [x.extractLsb' 32 32, x.extractLsb' 0 32]

end Sys2Proof.Machine
end

