-- ==== Sys2Proof/Machine/Operands.lean ====
section
/-! DEFINITION. The operands: the register map (10_state.md R21, R41), which registers are guarded (R21), the value
a register holds and the store of a value into it (40_system.md R100, R101), the packing of 128-bit values and of
the message window (R37, R45), and each command's read and write set (40_system.md R108). -/

namespace Sys2Proof.Machine

/-- The byte offset of a register (10_state.md R21). -/
def Reg.offset : Reg → Nat
  | .id => 0x000
  | .ctrl => 0x004
  | .status => 0x008
  | .cmd => 0x00C
  | .sm4Key i => 0x100 + 4 * i
  | .sm4Din i => 0x110 + 4 * i
  | .sm4Dout i => 0x120 + 4 * i
  | .sm3V i => 0x200 + 4 * i
  | .sm3CntLo => 0x220
  | .sm3CntHi => 0x224
  | .sm3Msg i => 0x240 + 4 * i
  | .ghH i => 0x300 + 4 * i
  | .ghX i => 0x310 + 4 * i
  | .ghIn i => 0x320 + 4 * i

/-- The register at an aligned offset: the word index is "(off - group base) / 4" (40_system.md R100); none is a
reserved offset (10_state.md R41). -/
def Reg.ofOffset (off : Nat) : Option Reg :=
  if off = 0x000 then some .id
  else if off = 0x004 then some .ctrl
  else if off = 0x008 then some .status
  else if off = 0x00C then some .cmd
  else if off < 0x100 then none
  else if off < 0x110 then some (.sm4Key (Fin.ofNat 4 ((off - 0x100) / 4)))
  else if off < 0x120 then some (.sm4Din (Fin.ofNat 4 ((off - 0x110) / 4)))
  else if off < 0x130 then some (.sm4Dout (Fin.ofNat 4 ((off - 0x120) / 4)))
  else if off < 0x200 then none
  else if off < 0x220 then some (.sm3V (Fin.ofNat 8 ((off - 0x200) / 4)))
  else if off = 0x220 then some .sm3CntLo
  else if off = 0x224 then some .sm3CntHi
  else if off < 0x240 then none
  else if off < 0x280 then some (.sm3Msg (Fin.ofNat 16 ((off - 0x240) / 4)))
  else if off < 0x300 then none
  else if off < 0x310 then some (.ghH (Fin.ofNat 4 ((off - 0x300) / 4)))
  else if off < 0x320 then some (.ghX (Fin.ofNat 4 ((off - 0x310) / 4)))
  else if off < 0x330 then some (.ghIn (Fin.ofNat 4 ((off - 0x320) / 4)))
  else none

/-- The guarded registers, the column of 10_state.md R21. -/
def Reg.guarded : Reg → Bool
  | .id => false
  | .ctrl => false
  | .status => false
  | .cmd => true
  | .sm4Key _ => true
  | .sm4Din _ => true
  | .sm4Dout _ => false
  | .sm3V _ => true
  | .sm3CntLo => true
  | .sm3CntHi => true
  | .sm3Msg _ => true
  | .ghH _ => true
  | .ghX _ => true
  | .ghIn _ => true

/-- Word `i` of a 128-bit value: `Y[127 - 32i : 96 - 32i]` (10_state.md R45). -/
def quadWord (y : Block128) (i : Fin 4) : Word := y.extractLsb' (96 - 32 * i) 32

/-- A 128-bit value with word `i` replaced (40_system.md R101). -/
def setQuadWord (y : Block128) (i : Fin 4) (v : Word) : Block128 :=
  (y &&& ~~~((0xFFFFFFFF#128) <<< (96 - 32 * (i : Nat)))) ||| (v.setWidth 128 <<< (96 - 32 * (i : Nat)))

/-- Byte `k` of a 128-bit value, byte 0 the most significant: `Y[127 - 8k : 120 - 8k]` (43_ghash.md R213). -/
def blockByte (y : Block128) (k : Nat) : Byte := y.extractLsb' (120 - 8 * k) 8

/-- `CNT[31:0]` (10_state.md R36). -/
def cntLo (cnt : BitVec 64) : Word := cnt.extractLsb' 0 32

/-- `CNT[63:32]` (10_state.md R36). -/
def cntHi (cnt : BitVec 64) : Word := cnt.extractLsb' 32 32

/-- `CNT` from its two halves (10_state.md R45). -/
def cntOf (hi lo : Word) : BitVec 64 := hi ++ lo

/-- `MSGBYTE(k)`, byte `k` of the message window, for `k` in 0..64 (10_state.md R37, 42_sm3.md R180). -/
def State.msgByte (s : State) (k : Nat) : Byte := byteOf (s.sm3Msg.toArray.getD (k / 4) 0#32) (k % 4)

/-- `MSGBYTE(0)` to `MSGBYTE(n - 1)` (42_sm3.md R182). -/
def State.msgBytes (s : State) (n : Nat) : List Byte := (List.range n).map s.msgByte

/-- The three registers the SM3 stream path works on (42_sm3.md R178). -/
def State.hash (s : State) : HashState := ⟨s.sm3V, s.cnt, s.buf⟩

/-- The state with those three replaced. -/
def State.withHash (s : State) (h : HashState) : State := { s with sm3V := h.v, cnt := h.cnt, buf := h.buf }

/-- The host-visible registers in each command's write set (40_system.md R108). RK, BUF and KEYVALID, which no bus
read returns in flight, are not listed here. -/
def inWriteSet (op : Op) (r : Reg) : Bool :=
  match op, r with
  | .zeroize, .sm4Key _ => true
  | .zeroize, .sm4Din _ => true
  | .zeroize, .sm4Dout _ => true
  | .zeroize, .sm3V _ => true
  | .zeroize, .sm3CntLo => true
  | .zeroize, .sm3CntHi => true
  | .zeroize, .sm3Msg _ => true
  | .zeroize, .ghH _ => true
  | .zeroize, .ghX _ => true
  | .zeroize, .ghIn _ => true
  | .sm4Enc, .sm4Dout _ => true
  | .sm4Dec, .sm4Dout _ => true
  | .sm3Init, .sm3V _ => true
  | .sm3Init, .sm3CntLo => true
  | .sm3Init, .sm3CntHi => true
  | .sm3Update, .sm3V _ => true
  | .sm3Update, .sm3CntLo => true
  | .sm3Update, .sm3CntHi => true
  | .sm3Final, .sm3V _ => true
  | .sm3Final, .sm3CntLo => true
  | .sm3Final, .sm3CntHi => true
  | .sm3Compress, .sm3V _ => true
  | .merkleNode, .sm3V _ => true
  | .merkleNode, .sm3CntLo => true
  | .merkleNode, .sm3CntHi => true
  | .gfMul, .ghX _ => true
  | .ghashUpdate, .ghX _ => true
  | _, _ => false

/-- The registers a bus read answers exactly even in flight: `ID`, `CTRL`, `STATUS` (40_system.md R107), and the
two that R100 answers with 0 without exception, `CMD` and `SM4_KEYi` (log 10). -/
def Reg.readsExactly : Reg → Bool
  | .id => true
  | .ctrl => true
  | .status => true
  | .cmd => true
  | .sm4Key _ => true
  | .sm4Din _ => false
  | .sm4Dout _ => false
  | .sm3V _ => false
  | .sm3CntLo => false
  | .sm3CntHi => false
  | .sm3Msg _ => false
  | .ghH _ => false
  | .ghX _ => false
  | .ghIn _ => false

end Sys2Proof.Machine
end

