-- ==== Sys2Proof/Machine/Ops.lean ====
section
/-! DEFINITION. The shared operations: recording an error and rejecting a command (60_exceptions.md R251, 40_system.md
R104), which is all that SMCORE has in place of taking an exception (60_exceptions.md R250, R257); the way back, the
write of STATUS, is `State.writeStatus` of Machine/Flags.lean (R258); bus reads and writes (40_system.md R100 to R102,
R107); issue (R103); the common part of every completion (R106); reset (70_reset_and_hazards.md R280). -/

namespace Sys2Proof.Machine

/-- The answer of one step. -/
abbrev Answer := Host.Outcome State Fault Refusal

/-- `raise Error(code)` (60_exceptions.md R251): the first error is kept. -/
def State.raiseError (e : ErrorKind) (s : State) : State :=
  if s.err then s else { s with err := true, errCode := e.code }

/-- `reject(code)` (40_system.md R104). -/
def State.reject (e : ErrorKind) (s : State) : State := ({ s with done := true } : State).raiseError e

/-- The acceptance of the command word `w` (40_system.md R103). -/
def State.accept (w : Word) (s : State) : State :=
  { s with inflight := some ⟨opField w, argField w⟩, busy := true, done := false }

/-- Whether a command is refused while no key schedule is held (40_system.md R103). -/
def needsKey (i : Instr) : Bool :=
  match i with
  | .sm4Enc => true
  | .sm4Dec => true
  | .nop => false
  | .zeroize => false
  | .sm4Keyexp => false
  | .sm3Init _ => false
  | .sm3Update _ => false
  | .sm3Final => false
  | .sm3Compress => false
  | .merkleNode => false
  | .gfMul => false
  | .ghashUpdate _ => false

/-- `issue(w)` (40_system.md R103): the word's own checks, in the decoder's order, then the key's. -/
def State.issue (w : Word) (s : State) : State :=
  match decode w with
  | .illegalOpcode => s.reject .illegalOpcode
  | .illegalArgument => s.reject .illegalArgument
  | .instr i => if needsKey i && !s.keyValid then s.reject .keyNotValid else s.accept w

/-- What register `r` holds, as a bus read returns it when no command is in flight (40_system.md R100). -/
def State.peek (s : State) (r : Reg) : Word :=
  match r with
  | .id => 0x534D4331#32
  | .ctrl => s.ctrlWord
  | .status => s.statusWord
  | .cmd => 0#32
  | .sm4Key _ => 0#32
  | .sm4Din i => s.sm4Din[i]
  | .sm4Dout i => s.sm4Dout[i]
  | .sm3V i => s.sm3V[i]
  | .sm3CntLo => cntLo s.cnt
  | .sm3CntHi => cntHi s.cnt
  | .sm3Msg i => s.sm3Msg[i]
  | .ghH i => quadWord s.ghH i
  | .ghX i => quadWord s.ghX i
  | .ghIn i => quadWord s.ghIn i

/-- Whether a bus read of `r` returns an arbitrary value: a command is in flight and `r` is in its write set
(40_system.md R107). -/
def State.readsFree (s : State) (r : Reg) : Bool :=
  match s.inflight with
  | none => false
  | some c =>
    match opOf c.op with
    | none => false
    | some op => inWriteSet op r && !r.readsExactly

/-- A bus read of the register at an offset, none being a reserved offset (40_system.md R100, R107; 10_state.md R41):
the value goes to `rdata`. An arbitrary value is the next free value, and counts as drawn (log 6). -/
def State.busRead (r : Option Reg) (s : State) : State :=
  match r with
  | none => { s with rdata := 0#32 }
  | some r =>
    if s.readsFree r then { s with rdata := Config.inflightRead s.draws, draws := s.draws + 1 }
    else { s with rdata := s.peek r }

/-- The store of `v` into a register that is not busy-guarded against it (40_system.md R101). -/
def State.store (r : Reg) (v : Word) (s : State) : State :=
  match r with
  | .id => s
  | .ctrl => s.writeCtrl v
  | .status => s.writeStatus v
  | .cmd => s.issue v
  | .sm4Key i => { s with sm4Key := s.sm4Key.set i v }
  | .sm4Din i => { s with sm4Din := s.sm4Din.set i v }
  | .sm4Dout _ => s
  | .sm3V i => { s with sm3V := s.sm3V.set i v }
  | .sm3CntLo => { s with cnt := cntOf (cntHi s.cnt) v }
  | .sm3CntHi => { s with cnt := cntOf v (cntLo s.cnt) }
  | .sm3Msg i => { s with sm3Msg := s.sm3Msg.set i v }
  | .ghH i => { s with ghH := setQuadWord s.ghH i v }
  | .ghX i => { s with ghX := setQuadWord s.ghX i v }
  | .ghIn i => { s with ghIn := setQuadWord s.ghIn i v }

/-- A bus write (40_system.md R101, R102; 10_state.md R41). -/
def State.busWrite (r : Option Reg) (v : Word) (s : State) : State :=
  match r with
  | none => s
  | some r => if r.guarded && s.busy then s.raiseError .writeWhileBusy else s.store r v

/-- One access of the bus: outside the window (20_memory.md R61; log 9), badly formed (R64, R65; log 8), or carried
out on the register at its offset. -/
def busAccess (addr bytes : Nat) (act : Option Reg → State) : Answer :=
  if addr < Config.base ∨ Config.base + Config.windowSize ≤ addr then .refused .outsideWindow
  else if bytes ≠ 4 ∨ addr % 4 ≠ 0 then .fault .busBadAccess
  else .next (act (Reg.ofOffset (addr - Config.base)))

/-- The state with the list of events still to come replaced. -/
def State.withEvents (es : List Event) (s : State) : State := { s with events := es }

/-- What every completion does after its command's `Execute` (40_system.md R106). -/
def State.finish (s : State) : State := { s with inflight := none, busy := false, done := true }

/-- The completion step's end as an answer. -/
def completed (s : State) : Answer := .next s.finish

/-- `Reset()` (70_reset_and_hazards.md R280, R281): every state of the spec to its reset value; the model's own three
fields go on (logs 1, 5, 6). -/
def State.resetNow (s : State) : State :=
  { State.reset with events := s.events, rdata := s.rdata, draws := s.draws }

end Sys2Proof.Machine
end

