-- ==== Sys2Proof/Machine/Ghash.lean ====
section
/-! DEFINITION. The GF(2^128) multiplier and the GHASH step (43_ghash.md): GF_MUL and GHASH_UPDATE. -/

namespace Sys2Proof.Machine

/-- `R = 0xE1 << 120`, the reduction polynomial (43_ghash.md R211). -/
def gfR : Block128 := 0xE1#128 <<< 120

/-- `V` after one step: multiplied by `x` (43_ghash.md R211). -/
def gfMulX (v : Block128) : Block128 := if v.getLsbD 0 then (v >>> 1) ^^^ gfR else v >>> 1

/-- The loop of `GFMul` with `n` steps to go, so that the bit looked at is `Xv[n - 1]` (43_ghash.md R211). -/
def gfLoop (x : Block128) : Nat → Block128 → Block128 → Block128
  | 0, z, _ => z
  | n + 1, z, v => gfLoop x n (if x.getLsbD n then z ^^^ v else z) (gfMulX v)

/-- `GFMul(Xv, Yv)` (43_ghash.md R211). -/
def gfMul (x y : Block128) : Block128 := gfLoop x 128 0#128 y

/-- `IN` with bytes `n` to 15 set to 0 (43_ghash.md R213): its low `8 (16 - n)` bits cleared. -/
def keepBytes (n : Nat) (y : Block128) : Block128 := (y >>> (8 * (16 - n))) <<< (8 * (16 - n))

/-- `GHASH_H(B_1, .., B_m)` (43_ghash.md R214). -/
def ghash (h : Block128) (blocks : List Block128) : Block128 := blocks.foldl (fun y b => gfMul (y ^^^ b) h) 0#128

/-- `GF_MUL` (43_ghash.md R212). -/
def execGfMul (s : State) : Answer := completed { s with ghX := gfMul s.ghX s.ghH }

/-- `GHASH_UPDATE` (43_ghash.md R213). -/
def execGhashUpdate (n : BitVec 5) (s : State) : Answer :=
  completed { s with ghX := gfMul (s.ghX ^^^ keepBytes n.toNat s.ghIn) s.ghH }

end Sys2Proof.Machine
end

