-- ==== Sys2Proof/Machine/Sm3.lean ====
section
/-! DEFINITION. The SM3 engine (42_sm3.md): constants, boolean functions, permutations, message expansion, the
compression function, the stream path with its padding, and the commands SM3_INIT, SM3_UPDATE, SM3_FINAL,
SM3_COMPRESS. -/

namespace Sys2Proof.Machine

/-- `IV[0..8]` (42_sm3.md R170). -/
def sm3IV : Vector Word 8 :=
  #v[0x7380166F#32, 0x4914B2B9#32, 0x172442D7#32, 0xDA8A0600#32,
     0xA96F30BC#32, 0x163138AA#32, 0xE38DEE4D#32, 0xB0FB0E4E#32]

/-- `Tc(j)` (42_sm3.md R171). -/
def tc (j : Nat) : Word := if j < 16 then 0x79CC4519#32 else 0x7A879D8A#32

/-- `FF(j, X, Y, Z)` (42_sm3.md R172). -/
def ff (j : Nat) (x y z : Word) : Word :=
  if j < 16 then x ^^^ y ^^^ z else (x &&& y) ||| (x &&& z) ||| (y &&& z)

/-- `GG(j, X, Y, Z)` (42_sm3.md R172). -/
def gg (j : Nat) (x y z : Word) : Word :=
  if j < 16 then x ^^^ y ^^^ z else (x &&& y) ||| (~~~x &&& z)

/-- `P0` (42_sm3.md R173). -/
def p0 (x : Word) : Word := x ^^^ rotl x 9 ^^^ rotl x 17

/-- `P1` (42_sm3.md R173). -/
def p1 (x : Word) : Word := x ^^^ rotl x 15 ^^^ rotl x 23

/-- `W[j]` from the words before it, the latest first, so that `W[j-k]` stands at place `k - 1` (42_sm3.md R175). -/
def nextW (ws : List Word) : Word :=
  p1 (ws.getD 15 0#32 ^^^ ws.getD 8 0#32 ^^^ rotl (ws.getD 2 0#32) 15) ^^^ rotl (ws.getD 12 0#32) 7 ^^^ ws.getD 5 0#32

/-- `n` more expanded words, the latest first (42_sm3.md R175). -/
def moreW : Nat → List Word → List Word
  | 0, ws => ws
  | n + 1, ws => moreW n (nextW ws :: ws)

/-- `W[0..68]` of a block (42_sm3.md R175). -/
def expandW (block : List Byte) : List Word := (moreW 52 ((List.range 16).map (be32 block)).reverse).reverse

/-- The working registers `A` to `H` of the rounds (42_sm3.md R176). -/
structure Work where
  a : Word
  b : Word
  c : Word
  d : Word
  e : Word
  f : Word
  g : Word
  h : Word
  deriving DecidableEq, Repr

/-- `Round(j, A..H, W, W1)` with `w = W[j]` and `w1 = W1[j]` (42_sm3.md R176); `+` is modulo 2^32 (R174). -/
def sm3Round (j : Nat) (w w1 : Word) (r : Work) : Work :=
  let ss1 := rotl (rotl r.a 12 + r.e + rotl (tc j) (j % 32)) 7
  let ss2 := ss1 ^^^ rotl r.a 12
  let tt1 := ff j r.a r.b r.c + r.d + ss2 + w1
  let tt2 := gg j r.e r.f r.g + r.h + ss1 + w
  ⟨tt1, r.a, rotl r.b 9, r.c, p0 tt2, r.e, rotl r.f 19, r.g⟩

/-- The round with index `j` on the expanded words, `W1[j] = W[j] ^ W[j+4]` (42_sm3.md R175, R176). -/
def sm3RoundAt (ws : List Word) (r : Work) (j : Nat) : Work :=
  sm3Round j (ws.getD j 0#32) (ws.getD j 0#32 ^^^ ws.getD (j + 4) 0#32) r

/-- `CF(V, B)` on a 64-byte block (42_sm3.md R177). -/
def cf (v : Vector Word 8) (block : List Byte) : Vector Word 8 :=
  let ws := expandW block
  let r := (List.range 64).foldl (sm3RoundAt ws) ⟨v[0], v[1], v[2], v[3], v[4], v[5], v[6], v[7]⟩
  #v[r.a ^^^ v[0], r.b ^^^ v[1], r.c ^^^ v[2], r.d ^^^ v[3], r.e ^^^ v[4], r.f ^^^ v[5], r.g ^^^ v[6], r.h ^^^ v[7]]

/-- The fill level `CNT mod 64` (10_state.md R36, R44). -/
def HashState.fill (h : HashState) : Nat := h.cnt.toNat % 64

/-- `Absorb(b)` (42_sm3.md R178). -/
def HashState.absorb (h : HashState) (b : Byte) : HashState :=
  let buf := h.buf.setIfInBounds h.fill b
  if h.fill = 63 then ⟨cf h.v buf.toList, h.cnt + 1#64, Vector.replicate 64 0#8⟩
  else ⟨h.v, h.cnt + 1#64, buf⟩

/-- A byte string absorbed in order (42_sm3.md R178). -/
def HashState.absorbAll (h : HashState) (bs : List Byte) : HashState := bs.foldl HashState.absorb h

/-- `Pad(c)` (42_sm3.md R179): `0x80`, `(55 - (c mod 64)) mod 64` zero bytes, the bit length `8c mod 2^64`. -/
def pad (c : BitVec 64) : List Byte :=
  0x80#8 :: (List.replicate ((119 - c.toNat % 64) % 64) 0#8 ++ bytesOf64 (8#64 * c))

/-- The domain byte of `SM3_INIT`'s prefix (30_encoding.md R84, 44_merkle.md R230). -/
def pfxBytes : Pfx → List Byte
  | .plain => []
  | .leaf => [0x00#8]
  | .node => [0x01#8]

/-- The stream state `SM3_INIT` leaves (42_sm3.md R181). -/
def HashState.init (p : Pfx) : HashState :=
  HashState.absorbAll ⟨sm3IV, 0#64, Vector.replicate 64 0#8⟩ (pfxBytes p)

/-- The stream state `SM3_FINAL` leaves; the length is taken before padding (42_sm3.md R183). -/
def HashState.final (h : HashState) : HashState := h.absorbAll (pad h.cnt)

/-- `n` blocks of 64 bytes compressed in order (42_sm3.md R185). -/
def cfBlocks : Nat → Vector Word 8 → List Byte → Vector Word 8
  | 0, v, _ => v
  | n + 1, v, m => cfBlocks n (cf v (m.take 64)) (m.drop 64)

/-- A message with its padding (42_sm3.md R185). -/
def padded (m : List Byte) : List Byte := m ++ pad (BitVec.ofNat 64 m.length)

/-- `SM3(m)` as eight words: `CF` on each block of `m ‖ Pad(c)` from the IV (42_sm3.md R185). No command calls it:
it is the function that the stream of commands computes. -/
def sm3 (m : List Byte) : Vector Word 8 := cfBlocks ((padded m).length / 64) sm3IV (padded m)

/-- `SM3_INIT` (42_sm3.md R181). -/
def execSm3Init (p : Pfx) (s : State) : Answer := completed (s.withHash (HashState.init p))

/-- `SM3_UPDATE` (42_sm3.md R182). -/
def execSm3Update (n : BitVec 7) (s : State) : Answer :=
  completed (s.withHash (s.hash.absorbAll (s.msgBytes n.toNat)))

/-- `SM3_FINAL` (42_sm3.md R183). -/
def execSm3Final (s : State) : Answer := completed (s.withHash s.hash.final)

/-- `SM3_COMPRESS`: neither CNT nor BUF is read or changed (42_sm3.md R184). -/
def execSm3Compress (s : State) : Answer := completed { s with sm3V := cf s.sm3V (s.msgBytes 64) }

end Sys2Proof.Machine
end

