-- ==== Sys2Proof/Machine/Merkle.lean ====
section
/-! DEFINITION. The Merkle node command (44_merkle.md R233). Leaf hashing has no command of its own: it is the SM3
stream with the leaf prefix (R231). -/

namespace Sys2Proof.Machine

/-- `hash_leaf(data)` (44_merkle.md R230). -/
def hashLeaf (data : List Byte) : Vector Word 8 := sm3 (0x00#8 :: data)

/-- `hash_node(left, right)` (44_merkle.md R230). -/
def hashNode (left right : List Byte) : Vector Word 8 := sm3 (0x01#8 :: (left ++ right))

/-- `MERKLE_NODE`: the stream sequence with the node prefix over the whole window (44_merkle.md R233). -/
def execMerkleNode (s : State) : Answer :=
  completed (s.withHash ((HashState.init .node).absorbAll (s.msgBytes 64)).final)

end Sys2Proof.Machine
end

