-- ==== Sys2Proof/Machine/Sm4.lean ====
section
/-! DEFINITION. The SM4 engine (41_sm4.md): S-box, system parameters, the two transforms, the key schedule, the
32-round transformation, and the commands SM4_KEYEXP, SM4_ENC, SM4_DEC. -/

namespace Sys2Proof.Machine

/-- The S-box of 41_sm4.md R130, one row of sixteen bytes a value, column 0 in the top byte. -/
def sboxRows : List Block128 :=
  [0xD690E9FECCE13DB716B614C228FB2C05#128, 0x2B679A762ABE04C3AA44132649860699#128,
   0x9C4250F491EF987A33540B43EDCFAC62#128, 0xE4B31CA9C908E89580DF94FA758F3FA6#128] ++
  [0x4707A7FCF37317BA83593C19E6854FA8#128, 0x686B81B27164DA8BF8EB0F4B70569D35#128,
   0x1E240E5E6358D1A225227C3B01217887#128, 0xD40046579FD327524C3602E7A0C4C89E#128] ++
  [0xEABF8AD240C738B5A3F7F2CEF96115A1#128, 0xE0AE5DA49B341A55AD933230F58CB1E3#128,
   0x1DF6E22E8266CA60C02923AB0D534E6F#128, 0xD5DB3745DEFD8E2F03FF6A726D6C5B51#128] ++
  [0x8D1BAF92BBDDBC7F11D95C411F105AD8#128, 0x0AC13188A5CD7BBD2D74D012B8E5B4B0#128,
   0x8969974A0C96777E65B9F109C56EC684#128, 0x18F07DEC3ADC4D2079EE5F3ED7CB3948#128]

/-- `Sbox[b]`: row `b div 16`, column `b mod 16` (41_sm4.md R130). -/
def sbox (b : Byte) : Byte := blockByte (sboxRows.getD (b.toNat / 16) 0#128) (b.toNat % 16)

/-- `FK[0..4]` (41_sm4.md R131). -/
def fk : Vector Word 4 := #v[0xA3B1BAC6#32, 0x56AA3350#32, 0x677D9197#32, 0xB27022DC#32]

/-- `ck(n) = 7n mod 256` (41_sm4.md R132). -/
def ckByte (n : Nat) : Byte := BitVec.ofNat 8 (7 * n)

/-- `CK[i]` (41_sm4.md R132). -/
def ck (i : Nat) : Word :=
  wordOfBytes (ckByte (4 * i)) (ckByte (4 * i + 1)) (ckByte (4 * i + 2)) (ckByte (4 * i + 3))

/-- `tau` (41_sm4.md R133). -/
def tau (a : Word) : Word :=
  wordOfBytes (sbox (byteOf a 0)) (sbox (byteOf a 1)) (sbox (byteOf a 2)) (sbox (byteOf a 3))

/-- `L` (41_sm4.md R134). -/
def linL (x : Word) : Word := x ^^^ rotl x 2 ^^^ rotl x 10 ^^^ rotl x 18 ^^^ rotl x 24

/-- `L'`, written `Lp` (41_sm4.md R135). -/
def linLp (x : Word) : Word := x ^^^ rotl x 13 ^^^ rotl x 23

/-- `T` (41_sm4.md R136). -/
def transT (x : Word) : Word := linL (tau x)

/-- `Tp` (41_sm4.md R136). -/
def transTp (x : Word) : Word := linLp (tau x)

/-- `T_k[b] = L(Sbox[b] << (24 - 8k))`, the four tables of the table-driven form of `T` (41_sm4.md R143). -/
def tTable (k : Nat) (b : Byte) : Word := linL ((sbox b).setWidth 32 <<< (24 - 8 * k))

/-- The rotating four-word state of the key schedule and of the rounds (41_sm4.md R137, R138). -/
structure Quad where
  a : Word
  b : Word
  c : Word
  d : Word
  deriving DecidableEq, Repr

/-- Four registers as a rotating state. -/
def Quad.ofVector (v : Vector Word 4) : Quad := ⟨v[0], v[1], v[2], v[3]⟩

/-- The rotating state as four registers. -/
def Quad.toVector (q : Quad) : Vector Word 4 := #v[q.a, q.b, q.c, q.d]

/-- The next round key, `K[i] ^ Tp(K[i+1] ^ K[i+2] ^ K[i+3] ^ CK[i])` (41_sm4.md R137). -/
def nextKey (c : Word) (q : Quad) : Word := q.a ^^^ transTp (q.b ^^^ q.c ^^^ q.d ^^^ c)

/-- The round keys made with the fixed parameters `cks` from the state `q` (41_sm4.md R137). -/
def scheduleFrom (q : Quad) : List Word → List Word
  | [] => []
  | c :: cks => nextKey c q :: scheduleFrom ⟨q.b, q.c, q.d, nextKey c q⟩ cks

/-- There are as many round keys as fixed parameters. -/
theorem scheduleFrom_length (cks : List Word) (q : Quad) : (scheduleFrom q cks).length = cks.length := by
  induction cks generalizing q with
  | nil => rfl
  | cons c cks ih => simp [scheduleFrom, ih]

/-- The key schedule's first state, `MK ^ FK` (41_sm4.md R137). -/
def keyStart (mk : Vector Word 4) : Quad :=
  ⟨mk[0] ^^^ fk[0], mk[1] ^^^ fk[1], mk[2] ^^^ fk[2], mk[3] ^^^ fk[3]⟩

/-- `KeyExp(MK0, MK1, MK2, MK3)` (41_sm4.md R137). -/
def keyExp (mk : Vector Word 4) : Vector Word 32 :=
  ⟨(scheduleFrom (keyStart mk) ((List.range 32).map ck)).toArray, by simp [scheduleFrom_length]⟩

/-- One round, `(X[i+1], X[i+2], X[i+3], X[i] ^ T(X[i+1] ^ X[i+2] ^ X[i+3] ^ k))` (41_sm4.md R138). -/
def sm4Round (q : Quad) (k : Word) : Quad := ⟨q.b, q.c, q.d, q.a ^^^ transT (q.b ^^^ q.c ^^^ q.d ^^^ k)⟩

/-- `SM4Crypt(rkseq, X0, X1, X2, X3)`: the rounds, then the final word reversal (41_sm4.md R138). -/
def sm4Crypt (rkseq : List Word) (x : Vector Word 4) : Vector Word 4 :=
  let q := rkseq.foldl sm4Round (Quad.ofVector x)
  #v[q.d, q.c, q.b, q.a]

/-- `SM4_KEYEXP` (41_sm4.md R140). -/
def execSm4Keyexp (s : State) : Answer := completed { s with rk := keyExp s.sm4Key, keyValid := true }

/-- `SM4_ENC` (41_sm4.md R141). -/
def execSm4Enc (s : State) : Answer := completed { s with sm4Dout := sm4Crypt s.rk.toList s.sm4Din }

/-- `SM4_DEC`: the round keys in reverse order (41_sm4.md R139, R142). -/
def execSm4Dec (s : State) : Answer := completed { s with sm4Dout := sm4Crypt s.rk.toList.reverse s.sm4Din }

end Sys2Proof.Machine
end

