-- ==== Sys2Proof/Machine/System.lean ====
section
/-! DEFINITION. The system commands NOP and ZEROIZE (40_system.md R109, R110). -/

namespace Sys2Proof.Machine

/-- `NOP` (40_system.md R109). -/
def execNop (s : State) : Answer := completed s

/-- `Execute(ZEROIZE, 0)` (40_system.md R110): all key and data state and KEYVALID, not CTRL, ERR or ERRCODE. -/
def State.zeroized (s : State) : State :=
  { s with
    sm4Key := Vector.replicate 4 0#32
    sm4Din := Vector.replicate 4 0#32
    sm4Dout := Vector.replicate 4 0#32
    rk := Vector.replicate 32 0#32
    keyValid := false
    sm3V := Vector.replicate 8 0#32
    cnt := 0#64
    buf := Vector.replicate 64 0#8
    sm3Msg := Vector.replicate 16 0#32
    ghH := 0#128
    ghX := 0#128
    ghIn := 0#128 }

/-- `ZEROIZE` (40_system.md R110). -/
def execZeroize (s : State) : Answer := completed s.zeroized

end Sys2Proof.Machine
end

