-- ==== Sys2Proof/Machine/Dispatch.lean ====
section
/-! DEFINITION. The completion step of each command (40_system.md R106), one arm a constructor. -/

namespace Sys2Proof.Machine

def exec (i : Instr) (s : State) : Host.Outcome State Fault Refusal :=
  match i with
  | .nop => Sys2Proof.Machine.execNop s
  | .zeroize => Sys2Proof.Machine.execZeroize s
  | .sm4Keyexp => Sys2Proof.Machine.execSm4Keyexp s
  | .sm4Enc => Sys2Proof.Machine.execSm4Enc s
  | .sm4Dec => Sys2Proof.Machine.execSm4Dec s
  | .sm3Init p => Sys2Proof.Machine.execSm3Init p s
  | .sm3Update n => Sys2Proof.Machine.execSm3Update n s
  | .sm3Final => Sys2Proof.Machine.execSm3Final s
  | .sm3Compress => Sys2Proof.Machine.execSm3Compress s
  | .merkleNode => Sys2Proof.Machine.execMerkleNode s
  | .gfMul => Sys2Proof.Machine.execGfMul s
  | .ghashUpdate n => Sys2Proof.Machine.execGhashUpdate n s

end Sys2Proof.Machine
end

