-- ==== Sys2Proof/Machine/Engine.lean ====
section
/-! DEFINITION. What the engine and each event do: the completion step with its decoding of INFLIGHT (40_system.md
R106), the three other events, and the placing of a command where the engine fetches it. -/

namespace Sys2Proof.Machine

/-- The command word an INFLIGHT pair stands for (10_state.md R42, 30_encoding.md R80). -/
def Inflight.word (c : Inflight) : Word := (c.arg.setWidth 32 <<< 8) ||| c.op.setWidth 32

/-- The engine's step: the completion of the command in flight (40_system.md R106), nothing where none is
(log 4). A pair that is no legal command stops the model (log 11). -/
def engineStep (s : State) : Answer :=
  match s.inflight with
  | none => .next s
  | some c =>
    match decode c.word with
    | .instr i => exec i s
    | .illegalOpcode => .fault .illegalInflight
    | .illegalArgument => .fault .illegalInflight

/-- One event of the list (00_scope.md R12, 40_system.md R114), in the state that no longer lists it. -/
def handle (e : Event) (s : State) : Answer :=
  match e with
  | .read addr bytes => busAccess addr bytes (fun r => s.busRead r)
  | .write addr bytes v => busAccess addr bytes (fun r => s.busWrite r v)
  | .complete => engineStep s
  | .reset => .next s.resetNow

/-- A command word placed so that the next step runs it (log 12): in INFLIGHT, where the engine fetches, with the
engine's step next; a word that is no command cannot stand there, and is the host's next CMD write instead. -/
def State.placeWord (w : Word) (s : State) : State :=
  match decode w with
  | .instr _ => { s.accept w with events := .complete :: s.events }
  | .illegalOpcode =>
    { s with inflight := none, busy := false, events := .write (Config.base + Reg.offset .cmd) 4 w :: s.events }
  | .illegalArgument =>
    { s with inflight := none, busy := false, events := .write (Config.base + Reg.offset .cmd) 4 w :: s.events }

end Sys2Proof.Machine
end

