-- ==== Sys2Proof/Machine/Step.lean ====
section
/-! DEFINITION. One step of SMCORE: the next event of the list; where none is left, the engine finishes the command
in flight, if any (00_scope.md R12: the completion "comes (weak fairness)"; logs 1, 3). -/

namespace Sys2Proof.Machine

/-- One step. -/
def step (s : State) : Host.Outcome State Fault Refusal :=
  match s.events with
  | [] => engineStep s
  | e :: rest => handle e (s.withEvents rest)

/-- `s` with the command word whose bits are the first `nbits` bits of `w` placed where the next step runs it
(log 12). -/
def State.withFetchWord (s : State) (nbits w : Nat) : State := s.placeWord (BitVec.ofNat 32 (w % 2 ^ nbits))

end Sys2Proof.Machine
end

