-- ==== Sys2Proof/Machine/HostOps.lean ====
section
/-! DEFINITION. The host programs' notation as lists of events: the lines `wr`, `rd`, `cmd` (30_encoding.md R88) and
the pseudo-instructions (R89), less the host's own branches `bnz` and `check`, which touch no state of SMCORE. -/

namespace Sys2Proof.Machine

/-- `wr REG, imm32` (30_encoding.md R88). -/
def wr (r : Reg) (v : Word) : Event := .write (Config.base + r.offset) 4 v

/-- `rd REG -> tK` (30_encoding.md R88); the value comes to `rdata`. -/
def rd (r : Reg) : Event := .read (Config.base + r.offset) 4

/-- `cmd MNEMONIC field=val` (30_encoding.md R88). -/
def cmd (i : Instr) : Event := wr .cmd (encode i)

/-- `wait`, spinning `k` times before the completion comes (30_encoding.md R89; the number is unspecified). -/
def wait (k : Nat) : List Event := List.replicate k (rd .status) ++ [.complete, rd .status]

/-- `clrst` (30_encoding.md R89). -/
def clrst : Event := wr .status 0x00000006#32

/-- `wrblk R, h` (30_encoding.md R89): word `i` of the byte string to the `i`-th register of the group. -/
def wrblk (rs : List Reg) (h : List Byte) : List Event := rs.mapIdx (fun i r => wr r (be32 h i))

/-- `rdblk R, m` (30_encoding.md R89). -/
def rdblk (rs : List Reg) : List Event := rs.map rd

/-- The words of the message window in order (10_state.md R37). -/
def msgRegs : List Reg := (List.finRange 16).map Reg.sm3Msg

/-- The words of the chaining state in order (10_state.md R35). -/
def vRegs : List Reg := (List.finRange 8).map Reg.sm3V

/-- The words of `GH_IN` in order (10_state.md R40). -/
def ghInRegs : List Reg := (List.finRange 4).map Reg.ghIn

/-- `MERKLE_LEAF_INIT` (30_encoding.md R89). -/
def merkleLeafInit : Event := cmd (.sm3Init .leaf)

/-- `MERKLE_NODE_INIT` (30_encoding.md R89). -/
def merkleNodeInit : Event := cmd (.sm3Init .node)

/-- `GHASH_BLOCK` (30_encoding.md R89). -/
def ghashBlock : Event := cmd (.ghashUpdate 16#5)

/-- `SM3_BLOCK` (30_encoding.md R89). -/
def sm3Block : Event := cmd (.sm3Update 64#7)

/-- `ghash_clear` (30_encoding.md R89). -/
def ghashClear : List Event := ((List.finRange 4).map Reg.ghX).map (fun r => wr r 0#32)

/-- One message window and the command that absorbs its first `n` bytes (42_sm3.md R185). -/
def updateWindow (window : List Byte) (n : Nat) : List Event :=
  wrblk msgRegs window ++ [cmd (.sm3Update (BitVec.ofNat 7 n)), .complete]

/-- The sequence of SM3_UPDATE commands for windows and byte counts, in order (42_sm3.md R185). -/
def updates (chunks : List (List Byte × Nat)) : List Event := chunks.flatMap (fun c => updateWindow c.1 c.2)

/-- The bytes those windows supply (42_sm3.md R185). -/
def suppliedBytes (chunks : List (List Byte × Nat)) : List Byte := chunks.flatMap (fun c => c.1.take c.2)

/-- A whole hash: SM3_INIT with a prefix, the updates, SM3_FINAL (42_sm3.md R185, 44_merkle.md R231, R232). -/
def hashProgram (p : Pfx) (chunks : List (List Byte × Nat)) : List Event :=
  [cmd (.sm3Init p), .complete] ++ updates chunks ++ [cmd .sm3Final, .complete]

/-- Length extension: load the digest and the counter, absorb the suffix, finish (42_sm3.md R186). -/
def extendProgram (digest : List Word) (count : BitVec 64) (chunks : List (List Byte × Nat)) : List Event :=
  wrblk vRegs (bytesOf digest) ++ [wr .sm3CntLo (cntLo count), wr .sm3CntHi (cntHi count)] ++ updates chunks ++
    [cmd .sm3Final, .complete]

/-- One full GHASH block: load `GH_IN`, then `GHASH_BLOCK` (43_ghash.md R214). -/
def ghashBlockProgram (b : Block128) : List Event :=
  (List.finRange 4).map (fun i => wr (.ghIn i) (quadWord b i)) ++ [ghashBlock, .complete]

end Sys2Proof.Machine
end

