-- ==== Sys2Proof/Safety.lean ====
section
/-! DEFINITION. The terms in which claims speak of runs: the invariant of SMCORE's state, the events that are proper
SMCORE accesses, and views of the state that leave the model's own fields, or the status, out. -/

namespace Sys2Proof.Machine

/-- The invariant: BUSY exactly when a command is in flight (10_state.md R42); DONE only when it is not (R25, R26);
ERRCODE 0 exactly while ERR is 0, and never above 4 (R29, 60_exceptions.md R252); a command in flight is legal, and
a block command in flight has its key schedule (40_system.md R103). -/
structure State.Inv (s : State) : Prop where
  busy_iff_inflight : s.busy = s.inflight.isSome
  not_busy_and_done : ¬(s.busy = true ∧ s.done = true)
  err_iff_errCode : s.err = false ↔ s.errCode = 0#4
  errCode_le_four : s.errCode.toNat ≤ 4
  inflight_legal : ∀ c, s.inflight = some c →
    ∃ i, decode c.word = .instr i ∧ (needsKey i = true → s.keyValid = true)

/-- An access that SMCORE answers: inside the window (20_memory.md R61), 32 bits wide and aligned (R64, R65). -/
def properAccess (addr bytes : Nat) : Prop :=
  Config.base ≤ addr ∧ addr < Config.base + Config.windowSize ∧ bytes = 4 ∧ addr % 4 = 0

/-- An event of the spec: a proper access, a completion step, a reset (40_system.md R114). -/
def Event.proper : Event → Prop
  | .read addr bytes => properAccess addr bytes
  | .write addr bytes _ => properAccess addr bytes
  | .complete => True
  | .reset => True

/-- A host access, proper or not. -/
def Event.isAccess : Event → Bool
  | .read _ _ => true
  | .write _ _ _ => true
  | .complete => false
  | .reset => false

/-- The state without the model's own three fields: what the spec calls state (10_state.md R46). -/
def State.architectural (s : State) : State := { s with events := [], rdata := 0#32, draws := 0 }

/-- The key and data state alone: CTRL, STATUS's BUSY, DONE, ERR and ERRCODE, INFLIGHT and the model's own fields left
out. KEYVALID stays (40_system.md R108 lists it in write sets). -/
def State.data (s : State) : State :=
  { s.architectural with ie := false, busy := false, done := false, err := false, errCode := 0#4, inflight := none }

/-- The state with the secrets that no bus read returns taken out: `SM4_KEY`, `RK`, `BUF` (10_state.md R31, R34, R44). -/
def State.withoutSecrets (s : State) : State :=
  { s with sm4Key := Vector.replicate 4 0#32, rk := Vector.replicate 32 0#32, buf := Vector.replicate 64 0#8 }

/-- The engine completes the command `i` in this step (40_system.md R106): its turn has come, by the event list or
because no event is left, and `i` is what INFLIGHT holds. -/
def State.completes (s : State) (i : Instr) : Prop :=
  (s.events = [] ∨ ∃ rest, s.events = .complete :: rest) ∧
    ∃ c, s.inflight = some c ∧ decode c.word = .instr i

/-- The reset input comes in this step. -/
def State.resets (s : State) : Prop := ∃ rest, s.events = .reset :: rest

/-- This step is a bus write of `v` to register `r`. -/
def State.hostWrites (s : State) (r : Reg) (v : Word) : Prop := ∃ rest, s.events = wr r v :: rest

/-- This step is a CMD write that is accepted (40_system.md R103). -/
def State.accepts (s : State) : Prop :=
  ∃ w i, s.hostWrites .cmd w ∧ s.busy = false ∧ decode w = .instr i ∧ (needsKey i = true → s.keyValid = true)

/-- This step is a CMD write that is rejected (40_system.md R103, R104). -/
def State.rejects (s : State) : Prop :=
  ∃ w, s.hostWrites .cmd w ∧ s.busy = false ∧ ¬s.accepts

/-- This step is a guarded write that is dropped (40_system.md R102). -/
def State.drops (s : State) : Prop := ∃ r v, s.hostWrites r v ∧ r.guarded = true ∧ s.busy = true

/-- Message windows of 64 bytes with legal byte counts, for the updates of a hash (42_sm3.md R185). -/
def legalChunks (chunks : List (List Byte × Nat)) : Prop := ∀ c ∈ chunks, c.1.length = 64 ∧ 1 ≤ c.2 ∧ c.2 ≤ 64

end Sys2Proof.Machine
end

