-- ==== Sys2Proof/Certificates/Slice0/Obligations.lean ====
section
/-! DEFINITION. The statements for the provers, one `def Obligations.<Name> : Prop` each. The file, the rule or the
log entry a statement formalises stands in its docstring. -/

open Sys2Proof Sys2Proof.Machine

/-! ## Encoding -/

/-- Every legal command, decoded from its own word, comes back with its operand (30_encoding.md R82 to R84). -/
def Obligations.DecodingAnEncodedCommandGivesItBack : Prop :=
  ∀ i : Instr, WellFormed i → decode (encode i) = .instr i

/-- The other direction: a word that decodes is the word of its command, and the command is legal
(30_encoding.md R85, R87). -/
def Obligations.DecodedWordIsTheEncodingOfItsCommand : Prop :=
  ∀ (w : Word) (i : Instr), decode w = .instr i → WellFormed i ∧ encode i = w

/-- "No two rows match the same word" (30_encoding.md R87). -/
def Obligations.NoWordMatchesTwoRows : Prop :=
  ∀ (w : Word) (r r' : OpcodeRow), r ∈ opcodeTable → r' ∈ opcodeTable →
    w &&& r.mask = r.pattern → w &&& r'.mask = r'.pattern → r = r'

/-- R86: a CMD write of any of the undefined opcodes it lists, made while idle, is rejected with code 1, and changes
nothing else. -/
def Obligations.UndefinedOpcodesAreRejected : Prop :=
  ∀ (s : State) (w : Word) (rest : List Event), s.busy = false → s.events = wr .cmd w :: rest →
    let op := (w.extractLsb' 0 8).toNat
    ((0x02 ≤ op ∧ op ≤ 0x0F) ∨ (0x13 ≤ op ∧ op ≤ 0x1F) ∨ (0x24 ≤ op ∧ op ≤ 0x27) ∨ (0x29 ≤ op ∧ op ≤ 0x2F) ∨
      (0x32 ≤ op ∧ op ≤ 0xFF)) →
    step s = .next { s with
      events := rest, done := true, err := true, errCode := if s.err then s.errCode else 1#4 }

/-- A few words, written out from the encoding patterns of 30_encoding.md R87, and what they stand for. -/
def Obligations.SampleWordsDecode : Prop :=
  decode 0b00000000000000000000000000000000#32 = .instr .nop ∧
  decode 0b00000000000000000000000000010001#32 = .instr .sm4Enc ∧
  decode 0b00000000000000000000001000100000#32 = .instr (.sm3Init .node) ∧
  decode 0b00000000000000000100000000100001#32 = .instr (.sm3Update 64#7) ∧
  decode 0b00000000000000000000000000101000#32 = .instr .merkleNode ∧
  decode 0b00000000000000000000111100110001#32 = .instr (.ghashUpdate 15#5)

/-! ## Steps and commands -/

/-- When INFLIGHT holds a word that decodes to `i`, the engine's step is the completion of `i`: on its turn in the
event list, and when no event is left (40_system.md R106, 00_scope.md R12; the empty list is the model's choice,
log 3). -/
def Obligations.EngineStepRunsTheCommandInFlight : Prop :=
  ∀ (s : State) (c : Inflight) (i : Instr), s.inflight = some c → decode c.word = .instr i →
    (s.events = [] → step s = exec i s) ∧
    (∀ rest, s.events = .complete :: rest → step s = exec i (s.withEvents rest))

/-- From the CMD write to the result: a legal command written while idle (with a key schedule held where it needs
one), then its completion step, is the completion of that command in the state of the write (40_system.md R103,
R105, R106). -/
def Obligations.WrittenCommandRunsToItsResult : Prop :=
  ∀ (s : State) (i : Instr) (rest : List Event), WellFormed i → s.busy = false →
    (needsKey i = true → s.keyValid = true) → s.events = cmd i :: .complete :: rest →
    Host.Core.run core 2 s = exec i (s.withEvents rest)

/-- A word placed by `withFetchWord` is the next thing that runs (log 12). -/
def Obligations.PlacedWordRunsNext : Prop :=
  ∀ (s : State) (w : Word) (i : Instr), decode w = .instr i → step (s.withFetchWord 32 w.toNat) = exec i s

/-! ## Reset -/

/-- R46: the complete list of reset values, the host-visible ones as a bus read gives them. -/
def Obligations.ResetLeavesTheListedValues : Prop :=
  (∀ r : Reg, State.reset.peek r = if r = .id then 0x534D4331#32 else 0#32) ∧
  State.reset.ie = false ∧ State.reset.busy = false ∧ State.reset.done = false ∧ State.reset.err = false ∧
  State.reset.keyValid = false ∧ State.reset.errCode = 0#4 ∧ State.reset.inflight = none ∧
  (∀ i : Fin 4, State.reset.sm4Key[i] = 0#32) ∧ (∀ i : Fin 32, State.reset.rk[i] = 0#32) ∧
  (∀ k : Fin 64, State.reset.buf[k] = 0#8) ∧ State.reset.irq = false

/-- Reset at any moment, a command in flight or not, gives the reset state; only the events still to come and the
model's own fields go on (70_reset_and_hazards.md R280, R281; logs 1, 5, 6). -/
def Obligations.ResetDiscardsTheCommandInFlight : Prop :=
  ∀ (s : State) (rest : List Event), s.events = .reset :: rest →
    ∃ t, step s = .next t ∧ t.architectural = State.reset.architectural ∧ t.events = rest

/-! ## Bus accesses -/

/-- The value of a bus read at every aligned offset while no command is in flight (40_system.md R100, 10_state.md
R24, R41, R45), and that nothing else changes. -/
def Obligations.IdleBusReadAnswersTheRegisterMap : Prop :=
  ∀ (s : State) (off : Nat) (rest : List Event), off < 0x1000 → off % 4 = 0 → s.inflight = none →
    s.events = .read (Config.base + off) 4 :: rest →
    step s = .next { s with
      events := rest
      rdata :=
        if off = 0x000 then 0x534D4331#32
        else if off = 0x004 then BitVec.ofNat 32 s.ie.toNat
        else if off = 0x008 then
          BitVec.ofNat 32 (s.busy.toNat + 2 * s.done.toNat + 4 * s.err.toNat + 8 * s.keyValid.toNat +
            256 * s.errCode.toNat)
        else if 0x110 ≤ off ∧ off < 0x120 then s.sm4Din.toList.getD ((off - 0x110) / 4) 0#32
        else if 0x120 ≤ off ∧ off < 0x130 then s.sm4Dout.toList.getD ((off - 0x120) / 4) 0#32
        else if 0x200 ≤ off ∧ off < 0x220 then s.sm3V.toList.getD ((off - 0x200) / 4) 0#32
        else if off = 0x220 then BitVec.ofNat 32 s.cnt.toNat
        else if off = 0x224 then BitVec.ofNat 32 (s.cnt.toNat / 2 ^ 32)
        else if 0x240 ≤ off ∧ off < 0x280 then s.sm3Msg.toList.getD ((off - 0x240) / 4) 0#32
        else if 0x300 ≤ off ∧ off < 0x310 then BitVec.ofNat 32 (s.ghH.toNat / 2 ^ (96 - 32 * ((off - 0x300) / 4)))
        else if 0x310 ≤ off ∧ off < 0x320 then BitVec.ofNat 32 (s.ghX.toNat / 2 ^ (96 - 32 * ((off - 0x310) / 4)))
        else if 0x320 ≤ off ∧ off < 0x330 then BitVec.ofNat 32 (s.ghIn.toNat / 2 ^ (96 - 32 * ((off - 0x320) / 4)))
        else 0#32 }

/-- Reads while a command is in flight (40_system.md R107): a register of the write set gives the next arbitrary value
(log 6), every other register its current value. `SM4_KEYi` in ZEROIZE's write set reads 0, the model's reading of
R100 against R107 (log 10). -/
def Obligations.ReadsInFlight : Prop :=
  ∀ (s : State) (c : Inflight) (i : Instr) (r : Reg) (rest : List Event),
    s.inflight = some c → decode c.word = .instr i → s.events = rd r :: rest →
    (inWriteSet i.op r = true → (∀ k, r ≠ .sm4Key k) →
      step s = .next { s with events := rest, rdata := Config.inflightRead s.draws, draws := s.draws + 1 }) ∧
    ((∃ k, r = .sm4Key k) → step s = .next { s with events := rest, rdata := 0#32 }) ∧
    (inWriteSet i.op r = false → step s = .next { s with events := rest, rdata := s.peek r })

/-- A read of any offset changes no state of the spec (20_memory.md R67, 40_system.md R100). -/
def Obligations.BusReadsHaveNoSideEffect : Prop :=
  ∀ (s : State) (addr : Nat) (rest : List Event), properAccess addr 4 → s.events = .read addr 4 :: rest →
    ∃ t, step s = .next t ∧ t.architectural = s.architectural ∧ t.events = rest

/-- R102: a guarded write while busy is dropped and records code 4, nothing else; the command in flight completes as
if the write had not happened; CTRL and STATUS writes take effect while busy. -/
def Obligations.GuardedWriteWhileBusyIsDropped : Prop :=
  ∀ (s : State) (r : Reg) (v : Word) (rest : List Event), s.busy = true → s.events = wr r v :: rest →
    (r.guarded = true →
      step s = .next { s with events := rest, err := true, errCode := if s.err then s.errCode else 4#4 } ∧
      ∀ t, engineStep (s.withEvents rest) = .next t →
        engineStep { s with events := rest, err := true, errCode := if s.err then s.errCode else 4#4 } =
          .next { t with err := true, errCode := if s.err then s.errCode else 4#4 }) ∧
    (r = .ctrl → step s = .next { s with events := rest, ie := v.getLsbD 0 }) ∧
    (r = .status → step s = .next { s with
      events := rest
      done := if v.getLsbD 1 then false else s.done
      err := if v.getLsbD 2 then false else s.err
      errCode := if v.getLsbD 2 then 0#4 else s.errCode })

/-- A write to a guarded data register while idle stores the word, and every other register and all hidden state keep
their values (40_system.md R101). -/
def Obligations.IdleWriteStoresOneRegister : Prop :=
  ∀ (s : State) (r : Reg) (v : Word) (rest : List Event), s.busy = false → r.guarded = true → r ≠ .cmd →
    s.events = wr r v :: rest →
    ∃ t, step s = .next t ∧
      (∀ k : Fin 4, r = .sm4Key k → t.sm4Key[k] = v) ∧
      (∀ k : Fin 4, r ≠ .sm4Key k → t.sm4Key[k] = s.sm4Key[k]) ∧
      ((∀ k, r ≠ .sm4Key k) → t.peek r = v) ∧
      (∀ r', r' ≠ r → t.peek r' = s.peek r') ∧
      t.rk = s.rk ∧ t.buf = s.buf ∧ t.keyValid = s.keyValid ∧ t.inflight = s.inflight ∧ t.ie = s.ie ∧
      t.busy = s.busy ∧ t.done = s.done ∧ t.err = s.err ∧ t.errCode = s.errCode ∧
      t.events = rest ∧ t.rdata = s.rdata ∧ t.draws = s.draws

/-- Writes to `ID` and `SM4_DOUT0..3` are ignored, busy or idle (10_state.md R22, R33). -/
def Obligations.ReadOnlyWritesAreIgnored : Prop :=
  ∀ (s : State) (r : Reg) (v : Word) (rest : List Event), (r = .id ∨ ∃ i, r = .sm4Dout i) →
    s.events = wr r v :: rest → step s = .next { s with events := rest }

/-- R41: the reserved offsets are exactly the offsets no register has; reads give 0; writes are ignored, busy or
idle, with no error. -/
def Obligations.ReservedOffsetsReadZeroAndIgnoreWrites : Prop :=
  ∀ off : Nat, off < 0x1000 → off % 4 = 0 →
    let reserved := (0x010 ≤ off ∧ off ≤ 0x0FC) ∨ (0x130 ≤ off ∧ off ≤ 0x1FC) ∨ (0x228 ≤ off ∧ off ≤ 0x23C) ∨
      (0x280 ≤ off ∧ off ≤ 0x2FC) ∨ (0x330 ≤ off ∧ off ≤ 0xFFC)
    (reserved ↔ ∀ r : Reg, r.offset ≠ off) ∧
    (reserved → ∀ (s : State) (rest : List Event),
      (s.events = .read (Config.base + off) 4 :: rest → step s = .next { s with events := rest, rdata := 0#32 }) ∧
      (∀ v, s.events = .write (Config.base + off) 4 v :: rest → step s = .next { s with events := rest }))

/-- R112: a STATUS write clears DONE by bit 1, ERR and ERRCODE by bit 2, and ignores every other bit, at any time. -/
def Obligations.StatusWriteClearsByOnes : Prop :=
  ∀ (s : State) (v : Word) (rest : List Event), s.events = wr .status v :: rest →
    step s = .next { s with
      events := rest
      done := if v.extractLsb' 1 1 = 1#1 then false else s.done
      err := if v.extractLsb' 2 1 = 1#1 then false else s.err
      errCode := if v.extractLsb' 2 1 = 1#1 then 0#4 else s.errCode }

/-- R113: a CTRL write sets IE to bit 0, at any time, and IRQ follows at once. -/
def Obligations.CtrlWriteSetsInterruptEnable : Prop :=
  ∀ (s : State) (v : Word) (rest : List Event), s.events = wr .ctrl v :: rest →
    step s = .next { s with events := rest, ie := decide (v.extractLsb' 0 1 = 1#1) } ∧
    ∀ t, step s = .next t → (t.irq = true ↔ v.extractLsb' 0 1 = 1#1 ∧ (s.done = true ∨ s.err = true))

/-- An access inside the window that is not 32 bits wide or not aligned faults (20_memory.md R64, R65; log 8). -/
def Obligations.BadAccessFaults : Prop :=
  ∀ (s : State) (addr bytes : Nat) (v : Word) (rest : List Event), Config.base ≤ addr → addr < Config.base + 0x1000 →
    (bytes ≠ 4 ∨ addr % 4 ≠ 0) →
    (s.events = .read addr bytes :: rest ∨ s.events = .write addr bytes v :: rest) →
    step s = .fault .busBadAccess

/-- An access outside the window is refused by name; that it stops the run is the model's choice (20_memory.md R61;
log 9). -/
def Obligations.AccessOutsideTheWindowIsRefused : Prop :=
  ∀ (s : State) (addr bytes : Nat) (v : Word) (rest : List Event),
    (addr < Config.base ∨ Config.base + 0x1000 ≤ addr) →
    (s.events = .read addr bytes :: rest ∨ s.events = .write addr bytes v :: rest) →
    step s = .refused .outsideWindow

/-! ## Issue, STATUS and errors -/

/-- R103 with R104: a CMD write made while idle is decided by the checks in order, undefined opcode, reserved bit or
field value, missing key schedule, and otherwise accepted; each outcome with everything it changes. -/
def Obligations.IssueDecidesInOrder : Prop :=
  ∀ (s : State) (w : Word) (rest : List Event), s.busy = false → s.events = wr .cmd w :: rest →
    let op := (w.extractLsb' 0 8).toNat
    let n7 := (w.extractLsb' 8 7).toNat
    let n5 := (w.extractLsb' 8 5).toNat
    let zeroForm := op ∈ [0x00, 0x01, 0x10, 0x11, 0x12, 0x22, 0x23, 0x28, 0x30]
    let defined := zeroForm ∨ op = 0x20 ∨ op = 0x21 ∨ op = 0x31
    let legal := (zeroForm ∧ w >>> 8 = 0#32) ∨
      (op = 0x20 ∧ w >>> 10 = 0#32 ∧ w.extractLsb' 8 2 ≠ 3#2) ∨
      (op = 0x21 ∧ w >>> 15 = 0#32 ∧ 1 ≤ n7 ∧ n7 ≤ 64) ∨
      (op = 0x31 ∧ w >>> 13 = 0#32 ∧ 1 ≤ n5 ∧ n5 ≤ 16)
    let keyMissing := (op = 0x11 ∨ op = 0x12) ∧ s.keyValid = false
    (¬defined → step s = .next { s with
      events := rest, done := true, err := true, errCode := if s.err then s.errCode else 1#4 }) ∧
    (defined → ¬legal → step s = .next { s with
      events := rest, done := true, err := true, errCode := if s.err then s.errCode else 2#4 }) ∧
    (legal → keyMissing → step s = .next { s with
      events := rest, done := true, err := true, errCode := if s.err then s.errCode else 3#4 }) ∧
    (legal → ¬keyMissing → step s = .next { s with
      events := rest, inflight := some ⟨w.extractLsb' 0 8, w.extractLsb' 8 8⟩, busy := true, done := false })

/-- The first error's code is kept until ERR is cleared (60_exceptions.md R251): whatever the next step is, but for a
reset and a STATUS write with bit 2 set. -/
def Obligations.FirstErrorIsKept : Prop :=
  ∀ s t : State, step s = .next t → s.err = true → ¬s.resets →
    (∀ v, s.hostWrites .status v → v.getLsbD 2 = false) → t.err = true ∧ t.errCode = s.errCode

/-- The invariant of `State.Inv` is kept by every step, whatever the event (10_state.md R29, R42; 40_system.md
R103). -/
def Obligations.EveryStepKeepsTheInvariant : Prop :=
  ∀ s t : State, s.Inv → step s = .next t → t.Inv

/-- The reset state meets the invariant. -/
def Obligations.ResetMeetsTheInvariant : Prop := State.reset.Inv

/-- Right after any CMD write, BUSY or DONE is 1 (92_eei_decisions.md D34). -/
def Obligations.CmdWriteLeavesBusyOrDone : Prop :=
  ∀ (s : State) (w : Word) (rest : List Event), s.events = wr .cmd w :: rest →
    ∃ t, step s = .next t ∧ (t.busy = true ∨ t.done = true)

/-- R25: BUSY is set by an accepted CMD write, cleared by the completion step and by reset, and nothing else writes
it. -/
def Obligations.BusyIsWrittenOnlyByAcceptanceCompletionReset : Prop :=
  ∀ s t : State, step s = .next t →
    (s.accepts → t.busy = true) ∧
    (((∃ i, s.completes i) ∨ s.resets) → t.busy = false) ∧
    (¬s.accepts → (∀ i, ¬s.completes i) → ¬s.resets → t.busy = s.busy)

/-- R26: DONE is set by the completion step (ZEROIZE's too) and by a rejected CMD write, cleared by an accepted CMD
write, by a STATUS write with bit 1 set and by reset; no other step changes it. -/
def Obligations.DoneIsWrittenOnlyByItsEvents : Prop :=
  ∀ s t : State, step s = .next t →
    (((∃ i, s.completes i) ∨ s.rejects) → t.done = true) ∧
    ((s.accepts ∨ (∃ v, s.hostWrites .status v ∧ v.getLsbD 1 = true) ∨ s.resets) → t.done = false) ∧
    ((∀ i, ¬s.completes i) → ¬s.rejects → ¬s.accepts → ¬s.resets →
      (∀ v, s.hostWrites .status v → v.getLsbD 1 = false) → t.done = s.done)

/-- R27: ERR is set by the writes that raise an error, and cleared, with ERRCODE, by a STATUS write with bit 2 set and
by reset; no completion, ZEROIZE's among them, changes it. -/
def Obligations.ErrIsWrittenOnlyByItsEvents : Prop :=
  ∀ s t : State, step s = .next t →
    ((s.rejects ∨ s.drops) → t.err = true) ∧
    (((∃ v, s.hostWrites .status v ∧ v.getLsbD 2 = true) ∨ s.resets) → t.err = false ∧ t.errCode = 0#4) ∧
    (∀ i, s.completes i → t.err = s.err ∧ t.errCode = s.errCode) ∧
    (¬s.rejects → ¬s.drops → ¬s.resets → (∀ v, s.hostWrites .status v → v.getLsbD 2 = false) →
      t.err = s.err ∧ t.errCode = s.errCode)

/-- R28: KEYVALID is set by SM4_KEYEXP's completion, cleared by ZEROIZE's and by reset, and kept by every other step, a
write to `SM4_KEY` among them; while it is 0, SM4_ENC and SM4_DEC are rejected. -/
def Obligations.KeyValidIsWrittenOnlyByItsEvents : Prop :=
  ∀ s t : State, step s = .next t →
    (s.completes .sm4Keyexp → t.keyValid = true) ∧
    ((s.completes .zeroize ∨ s.resets) → t.keyValid = false) ∧
    (¬s.completes .sm4Keyexp → ¬s.completes .zeroize → ¬s.resets → t.keyValid = s.keyValid) ∧
    (s.keyValid = false → s.busy = false →
      (s.hostWrites .cmd (encode .sm4Enc) ∨ s.hostWrites .cmd (encode .sm4Dec)) →
      t.busy = false ∧ t.inflight = s.inflight ∧ t.done = true ∧ t.err = true)

/-- The round keys, the output block and the byte buffer change only by the commands that write them and by reset, in
particular by no host access (10_state.md R33, R34, R44). -/
def Obligations.HiddenStateChangesOnlyByItsCommands : Prop :=
  ∀ s t : State, step s = .next t → ¬s.resets → ¬s.completes .zeroize →
    (¬s.completes .sm4Keyexp → t.rk = s.rk) ∧
    (¬s.completes .sm4Enc → ¬s.completes .sm4Dec → t.sm4Dout = s.sm4Dout) ∧
    ((∀ p, ¬s.completes (.sm3Init p)) → (∀ n, ¬s.completes (.sm3Update n)) → ¬s.completes .sm3Final →
      ¬s.completes .merkleNode → t.buf = s.buf)

/-- R43: IRQ is a function of IE, DONE and ERR. With it, how IRQ moves (60_exceptions.md R256): `clrst` lowers it, an
accepted command lowers it when ERR is 0, a completion raises it when IE is 1. -/
def Obligations.InterruptLineFollowsStatus : Prop :=
  ∀ s : State,
    (s.irq = true ↔ s.ie = true ∧ (s.done = true ∨ s.err = true)) ∧
    (∀ rest, s.events = clrst :: rest → ∃ t, step s = .next t ∧ t.irq = false) ∧
    (s.accepts → s.err = false → ∃ t, step s = .next t ∧ t.irq = false) ∧
    (∀ i, s.completes i → s.ie = true → ∃ t, step s = .next t ∧ t.irq = true)

/-- With nothing to come and no command in flight, every register keeps its value (60_exceptions.md R265; log 3). -/
def Obligations.IdleMachineKeepsItsState : Prop :=
  ∀ s : State, s.events = [] → s.inflight = none → step s = .next s

/-! ## System commands -/

/-- NOP completes and does nothing else (40_system.md R109). -/
def Obligations.NopOnlyCompletes : Prop :=
  ∀ s : State, exec .nop s = .next { s with inflight := none, busy := false, done := true }

/-- ZEROIZE leaves the reset state, except for CTRL, ERR, ERRCODE, DONE and the model's own fields (40_system.md
R110). -/
def Obligations.ZeroizeLeavesTheResetData : Prop :=
  ∀ s : State, exec .zeroize s = .next { State.reset with
    ie := s.ie, done := true, err := s.err, errCode := s.errCode
    events := s.events, rdata := s.rdata, draws := s.draws }

/-! ## SM4 -/

/-- The S-box is a permutation of the byte values (41_sm4.md R130). -/
def Obligations.SboxIsAPermutation : Prop :=
  (∀ a b : Byte, sbox a = sbox b → a = b) ∧ ∀ c : Byte, ∃ a, sbox a = c

/-- SM4_KEYEXP makes the round keys by the indexed recurrence of the key schedule, and sets KEYVALID (41_sm4.md R131,
R132, R135, R137, R140). -/
def Obligations.KeyExpansionFollowsItsRecurrence : Prop :=
  ∀ s : State, ∃ K : Nat → Word,
    K 0 = s.sm4Key[0] ^^^ 0xA3B1BAC6#32 ∧ K 1 = s.sm4Key[1] ^^^ 0x56AA3350#32 ∧
    K 2 = s.sm4Key[2] ^^^ 0x677D9197#32 ∧ K 3 = s.sm4Key[3] ^^^ 0xB27022DC#32 ∧
    (∀ i < 32,
      let c := BitVec.ofNat 32 (28 * i % 256 * 2 ^ 24 + (28 * i + 7) % 256 * 2 ^ 16 + (28 * i + 14) % 256 * 2 ^ 8 +
        (28 * i + 21) % 256)
      let y := tau (K (i + 1) ^^^ K (i + 2) ^^^ K (i + 3) ^^^ c)
      K (i + 4) = K i ^^^ (y ^^^ y.rotateLeft 13 ^^^ y.rotateLeft 23)) ∧
    exec .sm4Keyexp s = .next { s with
      rk := Vector.ofFn (fun i : Fin 32 => K (i + 4)), keyValid := true
      inflight := none, busy := false, done := true }

/-- SM4_ENC: 32 rounds of the indexed recurrence with the round keys in order, then the word reversal (41_sm4.md R134,
R138, R141). -/
def Obligations.EncryptionFollowsItsRecurrence : Prop :=
  ∀ s : State, ∃ X : Nat → Word,
    X 0 = s.sm4Din[0] ∧ X 1 = s.sm4Din[1] ∧ X 2 = s.sm4Din[2] ∧ X 3 = s.sm4Din[3] ∧
    (∀ i : Fin 32,
      let y := tau (X (i + 1) ^^^ X (i + 2) ^^^ X (i + 3) ^^^ s.rk[i])
      X (i + 4) = X i ^^^ (y ^^^ y.rotateLeft 2 ^^^ y.rotateLeft 10 ^^^ y.rotateLeft 18 ^^^ y.rotateLeft 24)) ∧
    exec .sm4Enc s = .next { s with
      sm4Dout := #v[X 35, X 34, X 33, X 32], inflight := none, busy := false, done := true }

/-- SM4_DEC: the same rounds, round `i` with `RK[31 - i]` (41_sm4.md R139, R142). -/
def Obligations.DecryptionUsesTheRoundKeysInReverse : Prop :=
  ∀ s : State, ∃ X : Nat → Word,
    X 0 = s.sm4Din[0] ∧ X 1 = s.sm4Din[1] ∧ X 2 = s.sm4Din[2] ∧ X 3 = s.sm4Din[3] ∧
    (∀ i : Fin 32,
      let y := tau (X (i + 1) ^^^ X (i + 2) ^^^ X (i + 3) ^^^ s.rk[i.rev])
      X (i + 4) = X i ^^^ (y ^^^ y.rotateLeft 2 ^^^ y.rotateLeft 10 ^^^ y.rotateLeft 18 ^^^ y.rotateLeft 24)) ∧
    exec .sm4Dec s = .next { s with
      sm4Dout := #v[X 35, X 34, X 33, X 32], inflight := none, busy := false, done := true }

/-- R144: with the schedule of any key, SM4_ENC then SM4_DEC gives the block back, and so does SM4_DEC then SM4_ENC. -/
def Obligations.DecryptionUndoesEncryptionAndBack : Prop :=
  ∀ (s : State) (block : Vector Word 4), ∃ k e d d' e' : State,
    exec .sm4Keyexp s = .next k ∧
    exec .sm4Enc { k with sm4Din := block } = .next e ∧
    exec .sm4Dec { e with sm4Din := e.sm4Dout } = .next d ∧ d.sm4Dout = block ∧
    exec .sm4Dec { k with sm4Din := block } = .next d' ∧
    exec .sm4Enc { d' with sm4Din := d'.sm4Dout } = .next e' ∧ e'.sm4Dout = block

/-- R143: the table-driven form of `T`, with `byte0` the most significant byte, equals the direct one. -/
def Obligations.TableDrivenRoundEqualsDirect : Prop :=
  (∀ (k : Nat) (b : Byte), k < 4 → tTable k b = linL ((sbox b).setWidth 32 <<< (24 - 8 * k))) ∧
  ∀ x : Word, linL (tau x) = tTable 0 (x.extractLsb' 24 8) ^^^ tTable 1 (x.extractLsb' 16 8) ^^^
    tTable 2 (x.extractLsb' 8 8) ^^^ tTable 3 (x.extractLsb' 0 8)

/-! ## SM3 -/

/-- SM3_INIT loads the IV, clears CNT and BUF, and absorbs the prefix byte, without a compression (42_sm3.md R170,
R181). -/
def Obligations.HashInitLoadsTheIv : Prop :=
  ∀ (s : State) (p : Pfx), exec (.sm3Init p) s = .next { s with
    sm3V := #v[0x7380166F#32, 0x4914B2B9#32, 0x172442D7#32, 0xDA8A0600#32,
               0xA96F30BC#32, 0x163138AA#32, 0xE38DEE4D#32, 0xB0FB0E4E#32]
    cnt := if p = .plain then 0#64 else 1#64
    buf := Vector.ofFn (fun k : Fin 64 => if k.val = 0 ∧ p = .node then 0x01#8 else 0x00#8)
    inflight := none, busy := false, done := true }

/-- SM3_UPDATE with `N` bytes in one formula: they go to the buffer from the fill level on; a block that fills up is
compressed once, the bytes after it start a cleared buffer; CNT grows by `N` modulo 2^64 (42_sm3.md R178, R180,
R182, R188). -/
def Obligations.HashUpdateFillsAndCompressesOnce : Prop :=
  ∀ (s : State) (n : BitVec 7), 1 ≤ n.toNat → n.toNat ≤ 64 →
    let f := s.cnt.toNat % 64
    let msg : Nat → Byte := fun k => (s.sm3Msg.toList.getD (k / 4) 0#32).extractLsb' (24 - 8 * (k % 4)) 8
    exec (.sm3Update n) s = .next { s with
      cnt := s.cnt + n.setWidth 64
      sm3V := if f + n.toNat < 64 then s.sm3V
        else cf s.sm3V ((List.range 64).map (fun k => if k < f then s.buf.toList.getD k 0#8 else msg (k - f)))
      buf := if f + n.toNat < 64
        then Vector.ofFn (fun k : Fin 64 => if f ≤ k.val ∧ k.val < f + n.toNat then msg (k - f) else s.buf[k])
        else Vector.ofFn (fun k : Fin 64 => if k.val + 64 < f + n.toNat then msg (k + 64 - f) else 0x00#8)
      inflight := none, busy := false, done := true }

/-- R179: the padding, its bytes, its length, and where it ends. -/
def Obligations.PaddingFillsTheBlock : Prop :=
  ∀ c : BitVec 64,
    let z := ((55 - (c.toNat : Int) % 64) % 64).toNat
    z ≤ 63 ∧
    pad c = [0x80#8] ++ List.replicate z 0x00#8 ++
      (List.range 8).map (fun k => BitVec.ofNat 8 (8 * c.toNat % 2 ^ 64 / 2 ^ (56 - 8 * k))) ∧
    (pad c).length = 9 + z ∧ 9 ≤ (pad c).length ∧ (pad c).length ≤ 72 ∧ (c.toNat + 9 + z) % 64 = 0 ∧
    (c.toNat % 64 ≤ 55 → c.toNat % 64 + (pad c).length = 64) ∧
    (55 < c.toNat % 64 → c.toNat % 64 + (pad c).length = 128)

/-- SM3_FINAL: the buffered bytes and the padding in one or two compressions, CNT grown by the padding, BUF cleared
(42_sm3.md R183). -/
def Obligations.HashFinalCompressesTheTail : Prop :=
  ∀ s : State,
    let f := s.cnt.toNat % 64
    let tail := s.buf.toList.take f ++ pad s.cnt
    exec .sm3Final s = .next { s with
      sm3V := if f ≤ 55 then cf s.sm3V tail else cf (cf s.sm3V (tail.take 64)) (tail.drop 64)
      cnt := s.cnt + BitVec.ofNat 64 (pad s.cnt).length
      buf := Vector.replicate 64 0x00#8
      inflight := none, busy := false, done := true }

/-- SM3_COMPRESS computes the compression function by the indexed recurrences of the message expansion and of the 64
rounds, on the window's words, and touches neither CNT nor BUF (42_sm3.md R171 to R177, R184). -/
def Obligations.CompressionFollowsItsRecurrences : Prop :=
  ∀ s : State, ∃ (W : Nat → Word) (R : Nat → Work),
    (∀ j : Fin 16, W j = s.sm3Msg[j]) ∧
    (∀ j, 16 ≤ j → j < 68 →
      let x := W (j - 16) ^^^ W (j - 9) ^^^ (W (j - 3)).rotateLeft 15
      W j = (x ^^^ x.rotateLeft 15 ^^^ x.rotateLeft 23) ^^^ (W (j - 13)).rotateLeft 7 ^^^ W (j - 6)) ∧
    R 0 = ⟨s.sm3V[0], s.sm3V[1], s.sm3V[2], s.sm3V[3], s.sm3V[4], s.sm3V[5], s.sm3V[6], s.sm3V[7]⟩ ∧
    (∀ j < 64,
      let r := R j
      let t : Word := if j < 16 then 0x79CC4519#32 else 0x7A879D8A#32
      let ff := if j < 16 then r.a ^^^ r.b ^^^ r.c else (r.a &&& r.b) ||| (r.a &&& r.c) ||| (r.b &&& r.c)
      let gg := if j < 16 then r.e ^^^ r.f ^^^ r.g else (r.e &&& r.f) ||| (~~~r.e &&& r.g)
      let ss1 := (r.a.rotateLeft 12 + r.e + t.rotateLeft (j % 32)).rotateLeft 7
      let ss2 := ss1 ^^^ r.a.rotateLeft 12
      let tt1 := ff + r.d + ss2 + (W j ^^^ W (j + 4))
      let tt2 := gg + r.h + ss1 + W j
      R (j + 1) = ⟨tt1, r.a, r.b.rotateLeft 9, r.c, tt2 ^^^ tt2.rotateLeft 9 ^^^ tt2.rotateLeft 17, r.e,
        r.f.rotateLeft 19, r.g⟩) ∧
    exec .sm3Compress s = .next { s with
      sm3V := #v[(R 64).a ^^^ s.sm3V[0], (R 64).b ^^^ s.sm3V[1], (R 64).c ^^^ s.sm3V[2], (R 64).d ^^^ s.sm3V[3],
                 (R 64).e ^^^ s.sm3V[4], (R 64).f ^^^ s.sm3V[5], (R 64).g ^^^ s.sm3V[6], (R 64).h ^^^ s.sm3V[7]]
      inflight := none, busy := false, done := true }

/-- MERKLE_NODE leaves `SM3(0x01 ‖ left ‖ right)` of the window's two halves, CNT 128 and BUF clear, whatever the SM3
state was (44_merkle.md R230, R233; 42_sm3.md R185). -/
def Obligations.MerkleNodeHashesBothChildren : Prop :=
  ∀ s : State, exec .merkleNode s = .next { s with
    sm3V := hashNode (bytesOf (s.sm3Msg.toList.take 8)) (bytesOf (s.sm3Msg.toList.drop 8))
    cnt := 128#64
    buf := Vector.replicate 64 0x00#8
    inflight := none, busy := false, done := true }

/-- R185, with the prefixes of 44_merkle.md R231 and R232: the host program SM3_INIT, then SM3_UPDATE commands whose
windows supply a message in order, then SM3_FINAL, run from any idle state, leaves `SM3(prefix ‖ message)`, for every
split into chunks of 1 to 64 bytes. -/
def Obligations.HashProgramComputesSm3 : Prop :=
  ∀ (s : State) (p : Pfx) (chunks : List (List Byte × Nat)) (rest : List Event),
    s.busy = false → legalChunks chunks → s.events = hashProgram p chunks ++ rest →
    ∃ t, Host.Core.run core (hashProgram p chunks).length s = .next t ∧
      t.sm3V = sm3 (pfxBytes p ++ suppliedBytes chunks) ∧
      t.busy = false ∧ t.done = true ∧ t.err = s.err ∧ t.errCode = s.errCode ∧ t.events = rest

/-- R186: loading the digest of any message `m` and the counter `c + |Pad(c)|`, then updating with a suffix and
finishing, leaves `SM3(m ‖ Pad(c) ‖ suffix)`, whatever BUF held. -/
def Obligations.LengthExtensionResumesFromADigest : Prop :=
  ∀ (s : State) (m : List Byte) (chunks : List (List Byte × Nat)) (rest : List Event),
    s.busy = false → legalChunks chunks →
    s.events = extendProgram (sm3 m).toList (BitVec.ofNat 64 (padded m).length) chunks ++ rest →
    ∃ t, Host.Core.run core
        (extendProgram (sm3 m).toList (BitVec.ofNat 64 (padded m).length) chunks).length s = .next t ∧
      t.sm3V = sm3 (m ++ pad (BitVec.ofNat 64 m.length) ++ suppliedBytes chunks) ∧
      t.busy = false ∧ t.events = rest

/-! ## GHASH -/

/-- GF_MUL computes the product by the indexed shift-and-XOR sequences (43_ghash.md R211, R212). -/
def Obligations.GfMulFollowsShiftAndXor : Prop :=
  ∀ s : State, ∃ Z V : Nat → Block128,
    Z 0 = 0#128 ∧ V 0 = s.ghH ∧
    (∀ i < 128,
      Z (i + 1) = (if s.ghX.getLsbD (127 - i) then Z i ^^^ V i else Z i) ∧
      V (i + 1) = (if (V i).getLsbD 0 then (V i >>> 1) ^^^ (0xE1#128 <<< 120) else V i >>> 1)) ∧
    exec .gfMul s = .next { s with ghX := Z 128, inflight := none, busy := false, done := true }

/-- GHASH_UPDATE multiplies the accumulator, XORed with the first `N` bytes of IN and zeros, by H (43_ghash.md R213). -/
def Obligations.GhashUpdateZeroPadsTheBlock : Prop :=
  ∀ (s : State) (n : BitVec 5), 1 ≤ n.toNat → n.toNat ≤ 16 → ∃ D : Block128,
    (∀ k < 16, D.extractLsb' (120 - 8 * k) 8 =
      if k < n.toNat then s.ghIn.extractLsb' (120 - 8 * k) 8 else 0x00#8) ∧
    exec (.ghashUpdate n) s = .next { s with
      ghX := gfMul (s.ghX ^^^ D) s.ghH, inflight := none, busy := false, done := true }

/-- The product does not depend on the roles of its operands (43_ghash.md R215). -/
def Obligations.GfMulCommutes : Prop := ∀ x y : Block128, gfMul x y = gfMul y x

/-- The product is associative (43_ghash.md R215). -/
def Obligations.GfMulAssociates : Prop := ∀ x y z : Block128, gfMul (gfMul x y) z = gfMul x (gfMul y z)

/-- The product distributes over XOR, has the one of the field's bit order as identity, and 0 absorbs (43_ghash.md
R210, R215). -/
def Obligations.GfMulDistributesWithOneAndZero : Prop :=
  (∀ x y z : Block128, gfMul (x ^^^ y) z = gfMul x z ^^^ gfMul y z) ∧
  (∀ x y z : Block128, gfMul x (y ^^^ z) = gfMul x y ^^^ gfMul x z) ∧
  (∀ x : Block128, gfMul x (1#128 <<< 127) = x ∧ gfMul (1#128 <<< 127) x = x) ∧
  ∀ x : Block128, gfMul x 0#128 = 0#128 ∧ gfMul 0#128 x = 0#128

/-- From `GH_X = 0`, one load of GH_IN and one full GHASH_UPDATE for each block, run from any idle state, leaves
`GHASH_H` of the blocks in GH_X (43_ghash.md R214). -/
def Obligations.GhashProgramComputesGhash : Prop :=
  ∀ (s : State) (blocks : List Block128) (rest : List Event), s.busy = false → s.ghX = 0#128 →
    s.events = blocks.flatMap ghashBlockProgram ++ rest →
    ∃ t, Host.Core.run core (6 * blocks.length) s = .next t ∧
      t.ghX = blocks.foldl (fun y b => gfMul (y ^^^ b) s.ghH) 0#128 ∧
      t.ghH = s.ghH ∧ t.busy = false ∧ t.err = s.err ∧ t.events = rest

/-! ## Whole-machine claims -/

/-- Every completion answers a next state that changes only its write set (40_system.md R106, R108): every
host-visible register outside it reads as before, and so do the hidden registers it does not list. -/
def Obligations.CompletionChangesOnlyItsWriteSet : Prop :=
  ∀ (i : Instr) (s : State), ∃ t, exec i s = .next t ∧
    (∀ r, r ≠ .status → inWriteSet i.op r = false → t.peek r = s.peek r) ∧
    (i ≠ .zeroize → t.sm4Key = s.sm4Key) ∧
    (i ≠ .zeroize → i ≠ .sm4Keyexp → t.rk = s.rk ∧ t.keyValid = s.keyValid) ∧
    (i.op ∉ [.zeroize, .sm3Init, .sm3Update, .sm3Final, .merkleNode] → t.buf = s.buf) ∧
    t.inflight = none ∧ t.busy = false ∧ t.done = true ∧ t.err = s.err ∧ t.errCode = s.errCode ∧ t.ie = s.ie ∧
    t.events = s.events ∧ t.rdata = s.rdata ∧ t.draws = s.draws

/-- No host access tells the key, the round keys or the byte buffer: two states that differ only there answer every
access alike and differ only there afterwards (10_state.md R31, R34, R44, R47; 60_exceptions.md R260, R264). Reads of
an arbitrary value in flight are left out: the hardware may expose intermediate round state there (40_system.md R107;
log 6). -/
def Obligations.HostAccessesDoNotRevealSecrets : Prop :=
  ∀ (s s' t : State) (e : Event) (rest : List Event), s.withoutSecrets = s'.withoutSecrets → e.isAccess = true →
    (∀ r, e = rd r → s.readsFree r = false) → s.events = e :: rest → step s = .next t →
    ∃ t', step s' = .next t' ∧ t'.withoutSecrets = t.withoutSecrets

/-- When the completion comes makes no difference to the result: whatever accesses the host makes while a command is
in flight, the key and data state after its completion is that of the completion at once (40_system.md R102, R105,
R106). -/
def Obligations.ResultDoesNotDependOnCompletionTime : Prop :=
  ∀ (s u : State) (c : Inflight) (i : Instr) (es rest : List Event),
    s.inflight = some c → s.busy = true → decode c.word = .instr i →
    (∀ e ∈ es, e.isAccess = true ∧ e.proper) → s.events = es ++ .complete :: rest → exec i s = .next u →
    ∃ t, Host.Core.run core (es.length + 1) s = .next t ∧ t.data = u.data ∧ t.busy = false ∧ t.done = true ∧
      t.events = rest

/-- The machine becomes idle: from every state that meets the invariant, whatever proper events are still to come, it
runs through all of them and is idle one step later. A command in flight has then completed, or a reset in the list
has discarded it (00_scope.md R12, 40_system.md R106, 70_reset_and_hazards.md R281; the last step is the model's
fairness, log 3). -/
def Obligations.EveryCommandCompletes : Prop :=
  ∀ s : State, s.Inv → (∀ e ∈ s.events, e.proper) →
    ∃ t, Host.Core.run core (s.events.length + 1) s = .next t ∧ t.busy = false ∧ t.inflight = none ∧ t.events = []
end

