-- ==== Sys2Proof/Laws/Decode.lean ====
section
/-! SUPPORT. What the decoder can answer, and that INFLIGHT's two bytes are the whole of a legal command word. -/

namespace Sys2Proof

/-- A word has one row at most by its opcode (30_encoding.md R87). -/
theorem rowOf_mem {b : Byte} {row : OpcodeRow} (h : rowOf b = some row) :
    row ∈ opcodeTable ∧ opField row.pattern = b := by
  refine ⟨List.mem_of_find?_eq_some h, ?_⟩
  simpa using List.find?_some h

/-- What it takes to be decoded as a command (40_system.md R103). -/
theorem decode_eq_instr {w : Word} {i : Instr} (h : decode w = .instr i) :
    ∃ row, rowOf (opField w) = some row ∧ w &&& row.mask = row.pattern ∧ fieldsOf row.op w = some i ∧
      i.wellFormed = true := by
  unfold decode at h
  split at h
  · cases h
  · rename_i row hrow
    split at h
    · rename_i hmask
      split at h
      · cases h
      · rename_i j hj
        split at h
        · rename_i hwf
          cases h
          exact ⟨row, hrow, hmask, hj, hwf⟩
        · cases h
    · cases h

/-- The fields of a word make a command of the operation they are read for (30_encoding.md R83). -/
theorem fieldsOf_op {op : Op} {w : Word} {i : Instr} (h : fieldsOf op w = some i) : i.op = op := by
  cases op <;> simp only [fieldsOf, Option.map_eq_some_iff, Option.some.injEq] at h <;>
    first
      | (subst h; rfl)
      | (obtain ⟨p, -, rfl⟩ := h; rfl)

/-- The opcode of a decoded word names the command's operation (30_encoding.md R82). -/
theorem opOf_of_decode {w : Word} {i : Instr} (h : decode w = .instr i) : opOf (opField w) = some i.op := by
  obtain ⟨row, hrow, -, hf, -⟩ := decode_eq_instr h
  simp [opOf, hrow, fieldsOf_op hf]

/-- Every row fixes the bits 31:16 to 0 (30_encoding.md R83). -/
theorem opcodeTable_high_bits : ∀ row ∈ opcodeTable,
    row.mask &&& 0xFFFF0000#32 = 0xFFFF0000#32 ∧ row.pattern &&& 0xFFFF0000#32 = 0#32 := by decide

/-- A command word has no bit above bit 15 (30_encoding.md R80, R83). -/
theorem decode_high_bits {w : Word} {i : Instr} (h : decode w = .instr i) : w &&& 0xFFFF0000#32 = 0#32 := by
  obtain ⟨row, hrow, hmask, -, -⟩ := decode_eq_instr h
  obtain ⟨hm, hp⟩ := opcodeTable_high_bits row (rowOf_mem hrow).1
  calc w &&& 0xFFFF0000#32 = (w &&& row.mask) &&& 0xFFFF0000#32 := by rw [BitVec.and_assoc, hm]
    _ = 0#32 := by rw [hmask, hp]

namespace Machine

/-- A word without bits above bit 15 is what its opcode and `w[15:8]` make (10_state.md R42). -/
theorem Inflight.word_of_high_bits {w : Word} (h : w &&& 0xFFFF0000#32 = 0#32) :
    Inflight.word ⟨opField w, argField w⟩ = w := by
  apply BitVec.eq_of_getLsbD_eq
  intro k hk
  have hbit : (w &&& 0xFFFF0000#32).getLsbD k = false := by rw [h]; simp
  rw [BitVec.getLsbD_and] at hbit
  simp only [Inflight.word, opField, argField, BitVec.getLsbD_or, BitVec.getLsbD_shiftLeft, BitVec.getLsbD_setWidth,
    BitVec.getLsbD_extractLsb', Nat.zero_add]
  by_cases h8 : k < 8
  · simp [h8, hk]
  · by_cases h16 : k < 16
    · have : k - 8 < 8 := by omega
      have h2 : 8 + (k - 8) = k := by omega
      simp [h8, hk, this, h2]
      omega
    · have h3 : (0xFFFF0000#32).getLsbD k = true := by
        have : ∀ j : Fin 32, 16 ≤ j.val → (0xFFFF0000#32).getLsbD j.val = true := by decide
        exact this ⟨k, hk⟩ (Nat.le_of_not_lt h16)
      rw [h3, Bool.and_true] at hbit
      have h4 : ¬ k - 8 < 8 := by omega
      simp [h8, h4, hbit]

/-- The pair INFLIGHT holds after a legal command word gives the word back (10_state.md R42, 40_system.md R103). -/
theorem Inflight.word_of_decode {w : Word} {i : Instr} (h : decode w = .instr i) :
    Inflight.word ⟨opField w, argField w⟩ = w := Inflight.word_of_high_bits (decode_high_bits h)

end Machine

end Sys2Proof
end

