-- ==== Sys2Proof/Laws/State.lean ====
section
/-! SUPPORT. One lemma for each field of State under each named update, so that no later proof unfolds one. -/

namespace Sys2Proof.Machine

variable (s : State) (v w : Word) (h : HashState) (e : ErrorKind) (es : List Event)

/-! `finish` (40_system.md R106) -/

@[simp] theorem State.finish_ie : (s.finish).ie = s.ie := rfl
@[simp] theorem State.finish_busy : (s.finish).busy = false := rfl
@[simp] theorem State.finish_done : (s.finish).done = true := rfl
@[simp] theorem State.finish_err : (s.finish).err = s.err := rfl
@[simp] theorem State.finish_keyValid : (s.finish).keyValid = s.keyValid := rfl
@[simp] theorem State.finish_errCode : (s.finish).errCode = s.errCode := rfl
@[simp] theorem State.finish_sm4Key : (s.finish).sm4Key = s.sm4Key := rfl
@[simp] theorem State.finish_sm4Din : (s.finish).sm4Din = s.sm4Din := rfl
@[simp] theorem State.finish_sm4Dout : (s.finish).sm4Dout = s.sm4Dout := rfl
@[simp] theorem State.finish_rk : (s.finish).rk = s.rk := rfl
@[simp] theorem State.finish_sm3V : (s.finish).sm3V = s.sm3V := rfl
@[simp] theorem State.finish_cnt : (s.finish).cnt = s.cnt := rfl
@[simp] theorem State.finish_buf : (s.finish).buf = s.buf := rfl
@[simp] theorem State.finish_sm3Msg : (s.finish).sm3Msg = s.sm3Msg := rfl
@[simp] theorem State.finish_ghH : (s.finish).ghH = s.ghH := rfl
@[simp] theorem State.finish_ghX : (s.finish).ghX = s.ghX := rfl
@[simp] theorem State.finish_ghIn : (s.finish).ghIn = s.ghIn := rfl
@[simp] theorem State.finish_inflight : (s.finish).inflight = none := rfl
@[simp] theorem State.finish_events : (s.finish).events = s.events := rfl
@[simp] theorem State.finish_rdata : (s.finish).rdata = s.rdata := rfl
@[simp] theorem State.finish_draws : (s.finish).draws = s.draws := rfl

/-! `accept` (40_system.md R103) -/

@[simp] theorem State.accept_ie : (s.accept w).ie = s.ie := rfl
@[simp] theorem State.accept_busy : (s.accept w).busy = true := rfl
@[simp] theorem State.accept_done : (s.accept w).done = false := rfl
@[simp] theorem State.accept_err : (s.accept w).err = s.err := rfl
@[simp] theorem State.accept_keyValid : (s.accept w).keyValid = s.keyValid := rfl
@[simp] theorem State.accept_errCode : (s.accept w).errCode = s.errCode := rfl
@[simp] theorem State.accept_sm4Key : (s.accept w).sm4Key = s.sm4Key := rfl
@[simp] theorem State.accept_sm4Din : (s.accept w).sm4Din = s.sm4Din := rfl
@[simp] theorem State.accept_sm4Dout : (s.accept w).sm4Dout = s.sm4Dout := rfl
@[simp] theorem State.accept_rk : (s.accept w).rk = s.rk := rfl
@[simp] theorem State.accept_sm3V : (s.accept w).sm3V = s.sm3V := rfl
@[simp] theorem State.accept_cnt : (s.accept w).cnt = s.cnt := rfl
@[simp] theorem State.accept_buf : (s.accept w).buf = s.buf := rfl
@[simp] theorem State.accept_sm3Msg : (s.accept w).sm3Msg = s.sm3Msg := rfl
@[simp] theorem State.accept_ghH : (s.accept w).ghH = s.ghH := rfl
@[simp] theorem State.accept_ghX : (s.accept w).ghX = s.ghX := rfl
@[simp] theorem State.accept_ghIn : (s.accept w).ghIn = s.ghIn := rfl
@[simp] theorem State.accept_inflight : (s.accept w).inflight = some ⟨opField w, argField w⟩ := rfl
@[simp] theorem State.accept_events : (s.accept w).events = s.events := rfl
@[simp] theorem State.accept_rdata : (s.accept w).rdata = s.rdata := rfl
@[simp] theorem State.accept_draws : (s.accept w).draws = s.draws := rfl

/-! `withEvents` -/

@[simp] theorem State.withEvents_ie : (s.withEvents es).ie = s.ie := rfl
@[simp] theorem State.withEvents_busy : (s.withEvents es).busy = s.busy := rfl
@[simp] theorem State.withEvents_done : (s.withEvents es).done = s.done := rfl
@[simp] theorem State.withEvents_err : (s.withEvents es).err = s.err := rfl
@[simp] theorem State.withEvents_keyValid : (s.withEvents es).keyValid = s.keyValid := rfl
@[simp] theorem State.withEvents_errCode : (s.withEvents es).errCode = s.errCode := rfl
@[simp] theorem State.withEvents_sm4Key : (s.withEvents es).sm4Key = s.sm4Key := rfl
@[simp] theorem State.withEvents_sm4Din : (s.withEvents es).sm4Din = s.sm4Din := rfl
@[simp] theorem State.withEvents_sm4Dout : (s.withEvents es).sm4Dout = s.sm4Dout := rfl
@[simp] theorem State.withEvents_rk : (s.withEvents es).rk = s.rk := rfl
@[simp] theorem State.withEvents_sm3V : (s.withEvents es).sm3V = s.sm3V := rfl
@[simp] theorem State.withEvents_cnt : (s.withEvents es).cnt = s.cnt := rfl
@[simp] theorem State.withEvents_buf : (s.withEvents es).buf = s.buf := rfl
@[simp] theorem State.withEvents_sm3Msg : (s.withEvents es).sm3Msg = s.sm3Msg := rfl
@[simp] theorem State.withEvents_ghH : (s.withEvents es).ghH = s.ghH := rfl
@[simp] theorem State.withEvents_ghX : (s.withEvents es).ghX = s.ghX := rfl
@[simp] theorem State.withEvents_ghIn : (s.withEvents es).ghIn = s.ghIn := rfl
@[simp] theorem State.withEvents_inflight : (s.withEvents es).inflight = s.inflight := rfl
@[simp] theorem State.withEvents_events : (s.withEvents es).events = es := rfl
@[simp] theorem State.withEvents_rdata : (s.withEvents es).rdata = s.rdata := rfl
@[simp] theorem State.withEvents_draws : (s.withEvents es).draws = s.draws := rfl

/-! `writeStatus` (40_system.md R112) -/

@[simp] theorem State.writeStatus_ie : (s.writeStatus v).ie = s.ie := rfl
@[simp] theorem State.writeStatus_busy : (s.writeStatus v).busy = s.busy := rfl
@[simp] theorem State.writeStatus_done : (s.writeStatus v).done = (s.done && !v.getLsbD 1) := rfl
@[simp] theorem State.writeStatus_err : (s.writeStatus v).err = (s.err && !v.getLsbD 2) := rfl
@[simp] theorem State.writeStatus_keyValid : (s.writeStatus v).keyValid = s.keyValid := rfl
@[simp] theorem State.writeStatus_errCode : (s.writeStatus v).errCode = (if v.getLsbD 2 then 0#4 else s.errCode) := rfl
@[simp] theorem State.writeStatus_sm4Key : (s.writeStatus v).sm4Key = s.sm4Key := rfl
@[simp] theorem State.writeStatus_sm4Din : (s.writeStatus v).sm4Din = s.sm4Din := rfl
@[simp] theorem State.writeStatus_sm4Dout : (s.writeStatus v).sm4Dout = s.sm4Dout := rfl
@[simp] theorem State.writeStatus_rk : (s.writeStatus v).rk = s.rk := rfl
@[simp] theorem State.writeStatus_sm3V : (s.writeStatus v).sm3V = s.sm3V := rfl
@[simp] theorem State.writeStatus_cnt : (s.writeStatus v).cnt = s.cnt := rfl
@[simp] theorem State.writeStatus_buf : (s.writeStatus v).buf = s.buf := rfl
@[simp] theorem State.writeStatus_sm3Msg : (s.writeStatus v).sm3Msg = s.sm3Msg := rfl
@[simp] theorem State.writeStatus_ghH : (s.writeStatus v).ghH = s.ghH := rfl
@[simp] theorem State.writeStatus_ghX : (s.writeStatus v).ghX = s.ghX := rfl
@[simp] theorem State.writeStatus_ghIn : (s.writeStatus v).ghIn = s.ghIn := rfl
@[simp] theorem State.writeStatus_inflight : (s.writeStatus v).inflight = s.inflight := rfl
@[simp] theorem State.writeStatus_events : (s.writeStatus v).events = s.events := rfl
@[simp] theorem State.writeStatus_rdata : (s.writeStatus v).rdata = s.rdata := rfl
@[simp] theorem State.writeStatus_draws : (s.writeStatus v).draws = s.draws := rfl

/-! `writeCtrl` (40_system.md R113) -/

@[simp] theorem State.writeCtrl_ie : (s.writeCtrl v).ie = v.getLsbD 0 := rfl
@[simp] theorem State.writeCtrl_busy : (s.writeCtrl v).busy = s.busy := rfl
@[simp] theorem State.writeCtrl_done : (s.writeCtrl v).done = s.done := rfl
@[simp] theorem State.writeCtrl_err : (s.writeCtrl v).err = s.err := rfl
@[simp] theorem State.writeCtrl_keyValid : (s.writeCtrl v).keyValid = s.keyValid := rfl
@[simp] theorem State.writeCtrl_errCode : (s.writeCtrl v).errCode = s.errCode := rfl
@[simp] theorem State.writeCtrl_sm4Key : (s.writeCtrl v).sm4Key = s.sm4Key := rfl
@[simp] theorem State.writeCtrl_sm4Din : (s.writeCtrl v).sm4Din = s.sm4Din := rfl
@[simp] theorem State.writeCtrl_sm4Dout : (s.writeCtrl v).sm4Dout = s.sm4Dout := rfl
@[simp] theorem State.writeCtrl_rk : (s.writeCtrl v).rk = s.rk := rfl
@[simp] theorem State.writeCtrl_sm3V : (s.writeCtrl v).sm3V = s.sm3V := rfl
@[simp] theorem State.writeCtrl_cnt : (s.writeCtrl v).cnt = s.cnt := rfl
@[simp] theorem State.writeCtrl_buf : (s.writeCtrl v).buf = s.buf := rfl
@[simp] theorem State.writeCtrl_sm3Msg : (s.writeCtrl v).sm3Msg = s.sm3Msg := rfl
@[simp] theorem State.writeCtrl_ghH : (s.writeCtrl v).ghH = s.ghH := rfl
@[simp] theorem State.writeCtrl_ghX : (s.writeCtrl v).ghX = s.ghX := rfl
@[simp] theorem State.writeCtrl_ghIn : (s.writeCtrl v).ghIn = s.ghIn := rfl
@[simp] theorem State.writeCtrl_inflight : (s.writeCtrl v).inflight = s.inflight := rfl
@[simp] theorem State.writeCtrl_events : (s.writeCtrl v).events = s.events := rfl
@[simp] theorem State.writeCtrl_rdata : (s.writeCtrl v).rdata = s.rdata := rfl
@[simp] theorem State.writeCtrl_draws : (s.writeCtrl v).draws = s.draws := rfl

/-! `withHash` (42_sm3.md R178) -/

@[simp] theorem State.withHash_ie : (s.withHash h).ie = s.ie := rfl
@[simp] theorem State.withHash_busy : (s.withHash h).busy = s.busy := rfl
@[simp] theorem State.withHash_done : (s.withHash h).done = s.done := rfl
@[simp] theorem State.withHash_err : (s.withHash h).err = s.err := rfl
@[simp] theorem State.withHash_keyValid : (s.withHash h).keyValid = s.keyValid := rfl
@[simp] theorem State.withHash_errCode : (s.withHash h).errCode = s.errCode := rfl
@[simp] theorem State.withHash_sm4Key : (s.withHash h).sm4Key = s.sm4Key := rfl
@[simp] theorem State.withHash_sm4Din : (s.withHash h).sm4Din = s.sm4Din := rfl
@[simp] theorem State.withHash_sm4Dout : (s.withHash h).sm4Dout = s.sm4Dout := rfl
@[simp] theorem State.withHash_rk : (s.withHash h).rk = s.rk := rfl
@[simp] theorem State.withHash_sm3V : (s.withHash h).sm3V = h.v := rfl
@[simp] theorem State.withHash_cnt : (s.withHash h).cnt = h.cnt := rfl
@[simp] theorem State.withHash_buf : (s.withHash h).buf = h.buf := rfl
@[simp] theorem State.withHash_sm3Msg : (s.withHash h).sm3Msg = s.sm3Msg := rfl
@[simp] theorem State.withHash_ghH : (s.withHash h).ghH = s.ghH := rfl
@[simp] theorem State.withHash_ghX : (s.withHash h).ghX = s.ghX := rfl
@[simp] theorem State.withHash_ghIn : (s.withHash h).ghIn = s.ghIn := rfl
@[simp] theorem State.withHash_inflight : (s.withHash h).inflight = s.inflight := rfl
@[simp] theorem State.withHash_events : (s.withHash h).events = s.events := rfl
@[simp] theorem State.withHash_rdata : (s.withHash h).rdata = s.rdata := rfl
@[simp] theorem State.withHash_draws : (s.withHash h).draws = s.draws := rfl

/-! `zeroized` (40_system.md R110) -/

@[simp] theorem State.zeroized_ie : (s.zeroized).ie = s.ie := rfl
@[simp] theorem State.zeroized_busy : (s.zeroized).busy = s.busy := rfl
@[simp] theorem State.zeroized_done : (s.zeroized).done = s.done := rfl
@[simp] theorem State.zeroized_err : (s.zeroized).err = s.err := rfl
@[simp] theorem State.zeroized_keyValid : (s.zeroized).keyValid = false := rfl
@[simp] theorem State.zeroized_errCode : (s.zeroized).errCode = s.errCode := rfl
@[simp] theorem State.zeroized_sm4Key : (s.zeroized).sm4Key = Vector.replicate 4 0#32 := rfl
@[simp] theorem State.zeroized_sm4Din : (s.zeroized).sm4Din = Vector.replicate 4 0#32 := rfl
@[simp] theorem State.zeroized_sm4Dout : (s.zeroized).sm4Dout = Vector.replicate 4 0#32 := rfl
@[simp] theorem State.zeroized_rk : (s.zeroized).rk = Vector.replicate 32 0#32 := rfl
@[simp] theorem State.zeroized_sm3V : (s.zeroized).sm3V = Vector.replicate 8 0#32 := rfl
@[simp] theorem State.zeroized_cnt : (s.zeroized).cnt = 0#64 := rfl
@[simp] theorem State.zeroized_buf : (s.zeroized).buf = Vector.replicate 64 0#8 := rfl
@[simp] theorem State.zeroized_sm3Msg : (s.zeroized).sm3Msg = Vector.replicate 16 0#32 := rfl
@[simp] theorem State.zeroized_ghH : (s.zeroized).ghH = 0#128 := rfl
@[simp] theorem State.zeroized_ghX : (s.zeroized).ghX = 0#128 := rfl
@[simp] theorem State.zeroized_ghIn : (s.zeroized).ghIn = 0#128 := rfl
@[simp] theorem State.zeroized_inflight : (s.zeroized).inflight = s.inflight := rfl
@[simp] theorem State.zeroized_events : (s.zeroized).events = s.events := rfl
@[simp] theorem State.zeroized_rdata : (s.zeroized).rdata = s.rdata := rfl
@[simp] theorem State.zeroized_draws : (s.zeroized).draws = s.draws := rfl

/-! `resetNow` (70_reset_and_hazards.md R280) -/

@[simp] theorem State.resetNow_ie : (s.resetNow).ie = false := rfl
@[simp] theorem State.resetNow_busy : (s.resetNow).busy = false := rfl
@[simp] theorem State.resetNow_done : (s.resetNow).done = false := rfl
@[simp] theorem State.resetNow_err : (s.resetNow).err = false := rfl
@[simp] theorem State.resetNow_keyValid : (s.resetNow).keyValid = false := rfl
@[simp] theorem State.resetNow_errCode : (s.resetNow).errCode = 0#4 := rfl
@[simp] theorem State.resetNow_sm4Key : (s.resetNow).sm4Key = Vector.replicate 4 0#32 := rfl
@[simp] theorem State.resetNow_sm4Din : (s.resetNow).sm4Din = Vector.replicate 4 0#32 := rfl
@[simp] theorem State.resetNow_sm4Dout : (s.resetNow).sm4Dout = Vector.replicate 4 0#32 := rfl
@[simp] theorem State.resetNow_rk : (s.resetNow).rk = Vector.replicate 32 0#32 := rfl
@[simp] theorem State.resetNow_sm3V : (s.resetNow).sm3V = Vector.replicate 8 0#32 := rfl
@[simp] theorem State.resetNow_cnt : (s.resetNow).cnt = 0#64 := rfl
@[simp] theorem State.resetNow_buf : (s.resetNow).buf = Vector.replicate 64 0#8 := rfl
@[simp] theorem State.resetNow_sm3Msg : (s.resetNow).sm3Msg = Vector.replicate 16 0#32 := rfl
@[simp] theorem State.resetNow_ghH : (s.resetNow).ghH = 0#128 := rfl
@[simp] theorem State.resetNow_ghX : (s.resetNow).ghX = 0#128 := rfl
@[simp] theorem State.resetNow_ghIn : (s.resetNow).ghIn = 0#128 := rfl
@[simp] theorem State.resetNow_inflight : (s.resetNow).inflight = none := rfl
@[simp] theorem State.resetNow_events : (s.resetNow).events = s.events := rfl
@[simp] theorem State.resetNow_rdata : (s.resetNow).rdata = s.rdata := rfl
@[simp] theorem State.resetNow_draws : (s.resetNow).draws = s.draws := rfl

/-! `raiseError` (60_exceptions.md R251) -/

@[simp] theorem State.raiseError_ie : (s.raiseError e).ie = s.ie := by
  unfold State.raiseError; split <;> rfl
@[simp] theorem State.raiseError_busy : (s.raiseError e).busy = s.busy := by
  unfold State.raiseError; split <;> rfl
@[simp] theorem State.raiseError_done : (s.raiseError e).done = s.done := by
  unfold State.raiseError; split <;> rfl
@[simp] theorem State.raiseError_err : (s.raiseError e).err = true := by
  unfold State.raiseError; split <;> simp_all
@[simp] theorem State.raiseError_keyValid : (s.raiseError e).keyValid = s.keyValid := by
  unfold State.raiseError; split <;> rfl
@[simp] theorem State.raiseError_errCode : (s.raiseError e).errCode = if s.err then s.errCode else e.code := by
  unfold State.raiseError; split <;> rfl
@[simp] theorem State.raiseError_sm4Key : (s.raiseError e).sm4Key = s.sm4Key := by
  unfold State.raiseError; split <;> rfl
@[simp] theorem State.raiseError_sm4Din : (s.raiseError e).sm4Din = s.sm4Din := by
  unfold State.raiseError; split <;> rfl
@[simp] theorem State.raiseError_sm4Dout : (s.raiseError e).sm4Dout = s.sm4Dout := by
  unfold State.raiseError; split <;> rfl
@[simp] theorem State.raiseError_rk : (s.raiseError e).rk = s.rk := by
  unfold State.raiseError; split <;> rfl
@[simp] theorem State.raiseError_sm3V : (s.raiseError e).sm3V = s.sm3V := by
  unfold State.raiseError; split <;> rfl
@[simp] theorem State.raiseError_cnt : (s.raiseError e).cnt = s.cnt := by
  unfold State.raiseError; split <;> rfl
@[simp] theorem State.raiseError_buf : (s.raiseError e).buf = s.buf := by
  unfold State.raiseError; split <;> rfl
@[simp] theorem State.raiseError_sm3Msg : (s.raiseError e).sm3Msg = s.sm3Msg := by
  unfold State.raiseError; split <;> rfl
@[simp] theorem State.raiseError_ghH : (s.raiseError e).ghH = s.ghH := by
  unfold State.raiseError; split <;> rfl
@[simp] theorem State.raiseError_ghX : (s.raiseError e).ghX = s.ghX := by
  unfold State.raiseError; split <;> rfl
@[simp] theorem State.raiseError_ghIn : (s.raiseError e).ghIn = s.ghIn := by
  unfold State.raiseError; split <;> rfl
@[simp] theorem State.raiseError_inflight : (s.raiseError e).inflight = s.inflight := by
  unfold State.raiseError; split <;> rfl
@[simp] theorem State.raiseError_events : (s.raiseError e).events = s.events := by
  unfold State.raiseError; split <;> rfl
@[simp] theorem State.raiseError_rdata : (s.raiseError e).rdata = s.rdata := by
  unfold State.raiseError; split <;> rfl
@[simp] theorem State.raiseError_draws : (s.raiseError e).draws = s.draws := by
  unfold State.raiseError; split <;> rfl

/-! `reject` (40_system.md R104) -/

@[simp] theorem State.reject_ie : (s.reject e).ie = s.ie := by simp [State.reject]
@[simp] theorem State.reject_busy : (s.reject e).busy = s.busy := by simp [State.reject]
@[simp] theorem State.reject_done : (s.reject e).done = true := by simp [State.reject]
@[simp] theorem State.reject_err : (s.reject e).err = true := by simp [State.reject]
@[simp] theorem State.reject_keyValid : (s.reject e).keyValid = s.keyValid := by simp [State.reject]
@[simp] theorem State.reject_errCode : (s.reject e).errCode = if s.err then s.errCode else e.code := by
  simp [State.reject]
@[simp] theorem State.reject_sm4Key : (s.reject e).sm4Key = s.sm4Key := by simp [State.reject]
@[simp] theorem State.reject_sm4Din : (s.reject e).sm4Din = s.sm4Din := by simp [State.reject]
@[simp] theorem State.reject_sm4Dout : (s.reject e).sm4Dout = s.sm4Dout := by simp [State.reject]
@[simp] theorem State.reject_rk : (s.reject e).rk = s.rk := by simp [State.reject]
@[simp] theorem State.reject_sm3V : (s.reject e).sm3V = s.sm3V := by simp [State.reject]
@[simp] theorem State.reject_cnt : (s.reject e).cnt = s.cnt := by simp [State.reject]
@[simp] theorem State.reject_buf : (s.reject e).buf = s.buf := by simp [State.reject]
@[simp] theorem State.reject_sm3Msg : (s.reject e).sm3Msg = s.sm3Msg := by simp [State.reject]
@[simp] theorem State.reject_ghH : (s.reject e).ghH = s.ghH := by simp [State.reject]
@[simp] theorem State.reject_ghX : (s.reject e).ghX = s.ghX := by simp [State.reject]
@[simp] theorem State.reject_ghIn : (s.reject e).ghIn = s.ghIn := by simp [State.reject]
@[simp] theorem State.reject_inflight : (s.reject e).inflight = s.inflight := by simp [State.reject]
@[simp] theorem State.reject_events : (s.reject e).events = s.events := by simp [State.reject]
@[simp] theorem State.reject_rdata : (s.reject e).rdata = s.rdata := by simp [State.reject]
@[simp] theorem State.reject_draws : (s.reject e).draws = s.draws := by simp [State.reject]

/-- `raise Error(code)` as one record: only ERR and ERRCODE change (60_exceptions.md R251). -/
theorem State.raiseError_eq :
    s.raiseError e = { s with err := true, errCode := if s.err then s.errCode else e.code } := by
  unfold State.raiseError
  split
  · rename_i h
    cases s
    simp_all
  · simp [*]

/-- `reject(code)` as one record: only DONE, ERR and ERRCODE change (40_system.md R104). -/
theorem State.reject_eq :
    s.reject e = { s with done := true, err := true, errCode := if s.err then s.errCode else e.code } := by
  rw [State.reject, State.raiseError_eq]

end Sys2Proof.Machine
end

