-- ==== Sys2Proof/Laws/Ops.lean ====
section
/-! SUPPORT. What each shared operation can do, said once: issue, bus reads and writes, one access, and the register
map's two directions. -/

namespace Sys2Proof.Machine

/-! ## The register map -/

/-- An offset is inside the window and aligned (10_state.md R21). -/
theorem Reg.offset_aligned (r : Reg) : r.offset < 0x1000 ∧ r.offset % 4 = 0 := by
  cases r <;> simp only [Reg.offset] <;> first | decide | omega

/-- The register at a register's offset is that register (10_state.md R21). -/
@[simp] theorem Reg.ofOffset_offset (r : Reg) : Reg.ofOffset r.offset = some r := by
  cases r with
  | id => rfl
  | ctrl => rfl
  | status => rfl
  | cmd => rfl
  | sm3CntLo => rfl
  | sm3CntHi => rfl
  | sm4Key i => revert i; decide
  | sm4Din i => revert i; decide
  | sm4Dout i => revert i; decide
  | sm3V i => revert i; decide
  | sm3Msg i => revert i; decide
  | ghH i => revert i; decide
  | ghX i => revert i; decide
  | ghIn i => revert i; decide

/-- Two registers do not share an offset (10_state.md R21). -/
theorem Reg.offset_injective {r r' : Reg} (h : r.offset = r'.offset) : r = r' := by
  have := Reg.ofOffset_offset r
  rw [h, Reg.ofOffset_offset] at this
  exact (Option.some.inj this).symm

/-- No register stands at or above 0x330 (10_state.md R41). -/
theorem Reg.ofOffset_above {off : Nat} (h : 0x330 ≤ off) : Reg.ofOffset off = none := by
  unfold Reg.ofOffset
  repeat rw [if_neg (by omega)]

/-- The register found at an aligned offset has that offset (10_state.md R21, 40_system.md R100). -/
theorem Reg.offset_of_ofOffset {off : Nat} {r : Reg} (h : Reg.ofOffset off = some r) (ha : off % 4 = 0) :
    r.offset = off := by
  have table : ∀ k : Fin 204, (Reg.ofOffset (4 * k.val)).all (fun r => r.offset == 4 * k.val) = true := by
    decide +kernel
  by_cases hb : 0x330 ≤ off
  · rw [Reg.ofOffset_above hb] at h
    cases h
  · have hk := table ⟨off / 4, by omega⟩
    have h4 : 4 * (off / 4) = off := by omega
    simp only [h4, h, Option.all_some, beq_iff_eq] at hk
    exact hk

/-! ## One access -/

/-- An access either leaves the window, or is badly formed, or is carried out (20_memory.md R61, R64, R65). -/
theorem busAccess_next {addr bytes : Nat} {act : Option Reg → State} {t : State}
    (h : busAccess addr bytes act = .next t) :
    (Config.base ≤ addr ∧ addr < Config.base + Config.windowSize ∧ bytes = 4 ∧ addr % 4 = 0) ∧
      t = act (Reg.ofOffset (addr - Config.base)) := by
  unfold busAccess at h
  split at h
  · cases h
  · split at h
    · cases h
    · cases h
      refine ⟨⟨?_, ?_, ?_, ?_⟩, rfl⟩ <;> omega

/-- A proper access is carried out (20_memory.md R61, R64, R65). -/
theorem busAccess_proper {addr bytes : Nat} {act : Option Reg → State}
    (h : Config.base ≤ addr ∧ addr < Config.base + Config.windowSize ∧ bytes = 4 ∧ addr % 4 = 0) :
    busAccess addr bytes act = .next (act (Reg.ofOffset (addr - Config.base))) := by
  unfold busAccess
  rw [if_neg (by omega), if_neg (by omega)]

/-- An access at a register's address is carried out on that register (20_memory.md R61). -/
@[simp] theorem busAccess_reg (r : Reg) (act : Option Reg → State) :
    busAccess (Config.base + r.offset) 4 act = .next (act (some r)) := by
  have hr := Reg.offset_aligned r
  have hb : Config.base % 4 = 0 := by unfold Config.base; omega
  rw [busAccess_proper ⟨by omega, by unfold Config.windowSize; omega, rfl, by omega⟩, Nat.add_sub_cancel_left,
    Reg.ofOffset_offset]

/-! ## Issue -/

/-- A CMD write made while idle is rejected with one of three codes, or accepted (40_system.md R103). -/
theorem State.issue_cases (w : Word) (s : State) :
    (decode w = .illegalOpcode ∧ s.issue w = s.reject .illegalOpcode) ∨
    (decode w = .illegalArgument ∧ s.issue w = s.reject .illegalArgument) ∨
    (∃ i, decode w = .instr i ∧ needsKey i = true ∧ s.keyValid = false ∧ s.issue w = s.reject .keyNotValid) ∨
    (∃ i, decode w = .instr i ∧ (needsKey i = true → s.keyValid = true) ∧ s.issue w = s.accept w) := by
  unfold State.issue
  cases h : decode w with
  | illegalOpcode => exact .inl ⟨rfl, rfl⟩
  | illegalArgument => exact .inr (.inl ⟨rfl, rfl⟩)
  | instr i =>
    by_cases hk : needsKey i = true ∧ s.keyValid = false
    · exact .inr (.inr (.inl ⟨i, rfl, hk.1, hk.2, by simp [hk]⟩))
    · refine .inr (.inr (.inr ⟨i, rfl, ?_, ?_⟩))
      · intro h1
        cases h2 : s.keyValid
        · exact absurd ⟨h1, h2⟩ hk
        · rfl
      · exact if_neg (by simpa using hk)

/-! ## Bus reads -/

/-- A bus read changes the read port and the count of draws, nothing else (20_memory.md R67). -/
theorem State.busRead_eq (r : Option Reg) (s : State) :
    s.busRead r = { s with rdata := (s.busRead r).rdata, draws := (s.busRead r).draws } := by
  unfold State.busRead
  cases r with
  | none => rfl
  | some r => dsimp only; split <;> rfl

/-! ## Bus writes -/

/-- What a bus write can do: nothing, record a dropped write, or store (40_system.md R101, R102, R41). -/
theorem State.busWrite_cases (r : Option Reg) (v : Word) (s : State) :
    (r = none ∧ s.busWrite r v = s) ∨
    (∃ g, r = some g ∧ g.guarded = true ∧ s.busy = true ∧ s.busWrite r v = s.raiseError .writeWhileBusy) ∨
    (∃ g, r = some g ∧ ¬(g.guarded = true ∧ s.busy = true) ∧ s.busWrite r v = s.store g v) := by
  cases r with
  | none => exact .inl ⟨rfl, rfl⟩
  | some g =>
    by_cases h : g.guarded = true ∧ s.busy = true
    · exact .inr (.inl ⟨g, rfl, h.1, h.2, by simp [State.busWrite, h]⟩)
    · exact .inr (.inr ⟨g, rfl, h, if_neg (by simpa using h)⟩)

/-- A store into a register other than CTRL, STATUS and CMD leaves control, status and hidden state alone
(40_system.md R101). -/
theorem State.store_control (r : Reg) (v : Word) (s : State) (h1 : r ≠ .ctrl) (h2 : r ≠ .status) (h3 : r ≠ .cmd) :
    (s.store r v).ie = s.ie ∧ (s.store r v).busy = s.busy ∧ (s.store r v).done = s.done ∧
    (s.store r v).err = s.err ∧ (s.store r v).errCode = s.errCode ∧ (s.store r v).keyValid = s.keyValid ∧
    (s.store r v).inflight = s.inflight ∧ (s.store r v).rk = s.rk ∧ (s.store r v).buf = s.buf := by
  cases r <;> first | exact absurd rfl h1 | exact absurd rfl h2 | exact absurd rfl h3 | exact ⟨rfl, rfl, rfl, rfl, rfl, rfl, rfl, rfl, rfl⟩

/-- No store touches the model's own fields. -/
theorem State.store_own (r : Reg) (v : Word) (s : State) :
    (s.store r v).events = s.events ∧ (s.store r v).rdata = s.rdata ∧ (s.store r v).draws = s.draws := by
  cases r with
  | cmd =>
    obtain ⟨-, h⟩ | ⟨-, h⟩ | ⟨i, -, -, -, h⟩ | ⟨i, -, -, h⟩ := State.issue_cases v s <;>
      simp [State.store, h]
  | _ => exact ⟨rfl, rfl, rfl⟩

end Sys2Proof.Machine
end

