-- ==== Sys2Proof/Laws/PerInstr.lean ====
section
/-! SUPPORT. Statements made for every command, one lemma a constructor. Family `RowOfEncoding`: a command's word
has the fixed bits of its operation's row in the match and mask table (30_encoding.md R87). -/

namespace Sys2Proof.Laws.RowOfEncoding

/-- The command's word matches its row, and that row is the one its opcode selects. -/
def Statement (i : Instr) : Prop :=
  ∃ row, rowOf (opField (encode i)) = some row ∧ row.op = i.op ∧ encode i &&& row.mask = row.pattern

theorem nop : Statement .nop := ⟨⟨.nop, 0x00#32, 0xFFFFFFFF#32⟩, by decide⟩

theorem zeroize : Statement .zeroize := ⟨⟨.zeroize, 0x01#32, 0xFFFFFFFF#32⟩, by decide⟩

theorem sm4Keyexp : Statement .sm4Keyexp := ⟨⟨.sm4Keyexp, 0x10#32, 0xFFFFFFFF#32⟩, by decide⟩

theorem sm4Enc : Statement .sm4Enc := ⟨⟨.sm4Enc, 0x11#32, 0xFFFFFFFF#32⟩, by decide⟩

theorem sm4Dec : Statement .sm4Dec := ⟨⟨.sm4Dec, 0x12#32, 0xFFFFFFFF#32⟩, by decide⟩

theorem sm3Init (p : Pfx) : Statement (.sm3Init p) :=
  ⟨⟨.sm3Init, 0x20#32, 0xFFFFFCFF#32⟩, by cases p <;> decide⟩

theorem sm3Update (n : BitVec 7) : Statement (.sm3Update n) :=
  ⟨⟨.sm3Update, 0x21#32, 0xFFFF80FF#32⟩, by revert n; decide⟩

theorem sm3Final : Statement .sm3Final := ⟨⟨.sm3Final, 0x22#32, 0xFFFFFFFF#32⟩, by decide⟩

theorem sm3Compress : Statement .sm3Compress := ⟨⟨.sm3Compress, 0x23#32, 0xFFFFFFFF#32⟩, by decide⟩

theorem merkleNode : Statement .merkleNode := ⟨⟨.merkleNode, 0x28#32, 0xFFFFFFFF#32⟩, by decide⟩

theorem gfMul : Statement .gfMul := ⟨⟨.gfMul, 0x30#32, 0xFFFFFFFF#32⟩, by decide⟩

theorem ghashUpdate (n : BitVec 5) : Statement (.ghashUpdate n) :=
  ⟨⟨.ghashUpdate, 0x31#32, 0xFFFFE0FF#32⟩, by revert n; decide⟩

end Sys2Proof.Laws.RowOfEncoding
end

