-- ==== Sys2Proof/Laws/Step.lean ====
section
/-! SUPPORT. What a completion and what a step can do, said once. -/

namespace Sys2Proof.Machine

/-! ## The completions, each as the command's writes and the common end -/

@[simp] theorem exec_nop (s : State) : exec .nop s = .next s.finish := rfl

@[simp] theorem exec_zeroize (s : State) : exec .zeroize s = .next s.zeroized.finish := rfl

@[simp] theorem exec_sm4Keyexp (s : State) :
    exec .sm4Keyexp s = .next ({ s with rk := keyExp s.sm4Key, keyValid := true } : State).finish := rfl

@[simp] theorem exec_sm4Enc (s : State) :
    exec .sm4Enc s = .next ({ s with sm4Dout := sm4Crypt s.rk.toList s.sm4Din } : State).finish := rfl

@[simp] theorem exec_sm4Dec (s : State) :
    exec .sm4Dec s = .next ({ s with sm4Dout := sm4Crypt s.rk.toList.reverse s.sm4Din } : State).finish := rfl

@[simp] theorem exec_sm3Init (p : Pfx) (s : State) :
    exec (.sm3Init p) s = .next (s.withHash (HashState.init p)).finish := rfl

@[simp] theorem exec_sm3Update (n : BitVec 7) (s : State) :
    exec (.sm3Update n) s = .next (s.withHash (s.hash.absorbAll (s.msgBytes n.toNat))).finish := rfl

@[simp] theorem exec_sm3Final (s : State) : exec .sm3Final s = .next (s.withHash s.hash.final).finish := rfl

@[simp] theorem exec_sm3Compress (s : State) :
    exec .sm3Compress s = .next ({ s with sm3V := cf s.sm3V (s.msgBytes 64) } : State).finish := rfl

@[simp] theorem exec_merkleNode (s : State) :
    exec .merkleNode s = .next (s.withHash ((HashState.init .node).absorbAll (s.msgBytes 64)).final).finish := rfl

@[simp] theorem exec_gfMul (s : State) :
    exec .gfMul s = .next ({ s with ghX := gfMul s.ghX s.ghH } : State).finish := rfl

@[simp] theorem exec_ghashUpdate (n : BitVec 5) (s : State) :
    exec (.ghashUpdate n) s =
      .next ({ s with ghX := gfMul (s.ghX ^^^ keepBytes n.toNat s.ghIn) s.ghH } : State).finish := rfl

/-- Every completion answers a next state: the command's own writes, then the common end, control and error state
and the model's own fields untouched by the command (40_system.md R106, R108). -/
theorem exec_eq_finish (i : Instr) (s : State) :
    ∃ u : State, exec i s = .next u.finish ∧ u.ie = s.ie ∧ u.err = s.err ∧ u.errCode = s.errCode ∧
      u.events = s.events ∧ u.rdata = s.rdata ∧ u.draws = s.draws := by
  cases i with
  | nop => exact ⟨_, exec_nop s, by simp⟩
  | zeroize => exact ⟨_, exec_zeroize s, by simp⟩
  | sm4Keyexp => exact ⟨_, exec_sm4Keyexp s, by simp⟩
  | sm4Enc => exact ⟨_, exec_sm4Enc s, by simp⟩
  | sm4Dec => exact ⟨_, exec_sm4Dec s, by simp⟩
  | sm3Init p => exact ⟨_, exec_sm3Init p s, by simp⟩
  | sm3Update n => exact ⟨_, exec_sm3Update n s, by simp⟩
  | sm3Final => exact ⟨_, exec_sm3Final s, by simp⟩
  | sm3Compress => exact ⟨_, exec_sm3Compress s, by simp⟩
  | merkleNode => exact ⟨_, exec_merkleNode s, by simp⟩
  | gfMul => exact ⟨_, exec_gfMul s, by simp⟩
  | ghashUpdate n => exact ⟨_, exec_ghashUpdate n s, by simp⟩

/-- What every completion leaves (40_system.md R106, R108). -/
theorem exec_next {i : Instr} {s t : State} (h : exec i s = .next t) :
    t.inflight = none ∧ t.busy = false ∧ t.done = true ∧ t.ie = s.ie ∧ t.err = s.err ∧ t.errCode = s.errCode ∧
      t.events = s.events ∧ t.rdata = s.rdata ∧ t.draws = s.draws := by
  obtain ⟨u, hu, h1, h2, h3, h4, h5, h6⟩ := exec_eq_finish i s
  rw [hu] at h
  cases h
  exact ⟨rfl, rfl, rfl, h1, h2, h3, h4, h5, h6⟩

/-- The engine's step with no command in flight (log 4). -/
theorem engineStep_idle {s : State} (h : s.inflight = none) : engineStep s = .next s := by
  simp only [engineStep, h]

/-- The engine's step with a legal command in flight (40_system.md R106). -/
theorem engineStep_instr {s : State} {c : Inflight} {i : Instr} (h : s.inflight = some c)
    (hd : decode c.word = .instr i) : engineStep s = exec i s := by
  unfold engineStep; simp only [h, hd]

/-- What the engine's step can do when it goes on (40_system.md R106). -/
theorem engineStep_next {s t : State} (h : engineStep s = .next t) :
    (s.inflight = none ∧ t = s) ∨
    ∃ c i, s.inflight = some c ∧ decode c.word = .instr i ∧ exec i s = .next t := by
  unfold engineStep at h
  split at h
  · cases h; exact .inl ⟨‹_›, rfl⟩
  · split at h
    · exact .inr ⟨_, _, ‹_›, ‹_›, h⟩
    · cases h
    · cases h

/-- A step with an event listed handles it; a step with none is the engine's (00_scope.md R12). -/
@[simp] theorem step_nil {s : State} (h : s.events = []) : step s = engineStep s := by
  simp only [step, h]

/-- A step with an event listed handles it in the state that no longer lists it (40_system.md R114). -/
theorem step_cons {s : State} {e : Event} {rest : List Event} (h : s.events = e :: rest) :
    step s = handle e (s.withEvents rest) := by
  simp only [step, h]

/-- A bus write to a register (30_encoding.md R88). -/
@[simp] theorem handle_wr (r : Reg) (v : Word) (s : State) : handle (wr r v) s = .next (s.busWrite (some r) v) := by
  simp [handle, wr]

/-- A bus read of a register (30_encoding.md R88). -/
@[simp] theorem handle_rd (r : Reg) (s : State) : handle (rd r) s = .next (s.busRead (some r)) := by
  simp [handle, rd]

/-- A step that is a bus write to a register. -/
theorem step_wr {s : State} {r : Reg} {v : Word} {rest : List Event} (h : s.events = wr r v :: rest) :
    step s = .next ((s.withEvents rest).busWrite (some r) v) := by
  rw [step_cons h, handle_wr]

/-- A step that is a bus read of a register. -/
theorem step_rd {s : State} {r : Reg} {rest : List Event} (h : s.events = rd r :: rest) :
    step s = .next ((s.withEvents rest).busRead (some r)) := by
  rw [step_cons h, handle_rd]

/-- A step that is the engine's turn. -/
theorem step_complete {s : State} {rest : List Event} (h : s.events = .complete :: rest) :
    step s = engineStep (s.withEvents rest) := by
  rw [step_cons h]; rfl

/-- A step that is a reset. -/
theorem step_reset {s : State} {rest : List Event} (h : s.events = .reset :: rest) :
    step s = .next (s.withEvents rest).resetNow := by
  rw [step_cons h]; rfl

/-- A CMD write made while idle is an issue (40_system.md R101, R103). -/
theorem step_cmd_idle {s : State} {w : Word} {rest : List Event} (h : s.events = wr .cmd w :: rest)
    (hb : s.busy = false) : step s = .next ((s.withEvents rest).issue w) := by
  rw [step_wr h]
  simp [State.busWrite, Reg.guarded, hb, State.store]

/-- An accepted command: the very next state (40_system.md R103). -/
theorem step_cmd_accept {s : State} {w : Word} {i : Instr} {rest : List Event} (h : s.events = wr .cmd w :: rest)
    (hb : s.busy = false) (hd : decode w = .instr i) (hk : needsKey i = true → s.keyValid = true) :
    step s = .next ((s.withEvents rest).accept w) := by
  rw [step_cmd_idle h hb]
  obtain ⟨h1, -⟩ | ⟨h1, -⟩ | ⟨j, h1, h2, h3, -⟩ | ⟨j, -, -, h3⟩ := State.issue_cases w (s.withEvents rest)
  · rw [hd] at h1; cases h1
  · rw [hd] at h1; cases h1
  · rw [hd] at h1; cases h1; exact absurd (hk h2) (by simpa using h3)
  · rw [h3]

/-- A completion does not see what the acceptance wrote, so completing right after acceptance is completing
(40_system.md R105, R106). -/
theorem exec_accept (i : Instr) (s : State) (w : Word) : exec i (s.accept w) = exec i s := by
  cases i with
  | sm3Update n => simp only [exec_sm3Update]; rfl
  | _ => rfl

/-- What a step can do when it goes on: a read, a write, the engine's step, or a reset. -/
theorem step_next {s t : State} (h : step s = .next t) :
    (∃ addr rest, s.events = .read addr 4 :: rest ∧ properAccess addr 4 ∧
      t = (s.withEvents rest).busRead (Reg.ofOffset (addr - Config.base))) ∨
    (∃ addr v rest, s.events = .write addr 4 v :: rest ∧ properAccess addr 4 ∧
      t = (s.withEvents rest).busWrite (Reg.ofOffset (addr - Config.base)) v) ∨
    (∃ rest, s.events = .complete :: rest ∧ engineStep (s.withEvents rest) = .next t) ∨
    (s.events = [] ∧ engineStep s = .next t) ∨
    (∃ rest, s.events = .reset :: rest ∧ t = (s.withEvents rest).resetNow) := by
  cases he : s.events with
  | nil => exact .inr (.inr (.inr (.inl ⟨rfl, by rw [← step_nil he]; exact h⟩)))
  | cons e rest =>
    rw [step_cons he] at h
    cases e with
    | read addr bytes =>
      simp only [handle] at h
      obtain ⟨hp, rfl⟩ := busAccess_next h
      obtain ⟨h1, h2, rfl, h4⟩ := hp
      exact .inl ⟨addr, rest, rfl, ⟨h1, h2, rfl, h4⟩, rfl⟩
    | write addr bytes v =>
      simp only [handle] at h
      obtain ⟨hp, rfl⟩ := busAccess_next h
      obtain ⟨h1, h2, rfl, h4⟩ := hp
      exact .inr (.inl ⟨addr, v, rest, rfl, ⟨h1, h2, rfl, h4⟩, rfl⟩)
    | complete => exact .inr (.inr (.inl ⟨rest, rfl, h⟩))
    | reset =>
      cases h
      exact .inr (.inr (.inr (.inr ⟨rest, rfl, rfl⟩)))

/-- Two writes at the head of an event list are the same write when the lists are equal (10_state.md R21). -/
theorem wr_injective {r r' : Reg} {v v' : Word} {rest rest' : List Event}
    (h : wr r v :: rest = wr r' v' :: rest') : r = r' ∧ v = v' ∧ rest = rest' := by
  simp only [wr, List.cons.injEq, Event.write.injEq] at h
  obtain ⟨⟨h1, -, h2⟩, h3⟩ := h
  exact ⟨Reg.offset_injective (by omega), h2, h3⟩

/-- What a bus write to a register can do: be dropped, be a CTRL, STATUS or CMD write, or store data
(40_system.md R101, R102). -/
theorem State.busWrite_reg_cases (r : Reg) (v : Word) (s : State) :
    (r.guarded = true ∧ s.busy = true ∧ s.busWrite (some r) v = s.raiseError .writeWhileBusy) ∨
    (r = .ctrl ∧ s.busWrite (some r) v = s.writeCtrl v) ∨
    (r = .status ∧ s.busWrite (some r) v = s.writeStatus v) ∨
    (r = .cmd ∧ s.busy = false ∧ s.busWrite (some r) v = s.issue v) ∨
    (r ≠ .ctrl ∧ r ≠ .status ∧ r ≠ .cmd ∧ ¬(r.guarded = true ∧ s.busy = true) ∧
      s.busWrite (some r) v = s.store r v) := by
  obtain ⟨h, -⟩ | ⟨g, h, hg, hb, e⟩ | ⟨g, h, hn, e⟩ := State.busWrite_cases (some r) v s
  · cases h
  · cases h
    exact .inl ⟨hg, hb, e⟩
  · cases h
    by_cases h1 : r = .ctrl
    · subst h1
      exact .inr (.inl ⟨rfl, e⟩)
    by_cases h2 : r = .status
    · subst h2
      exact .inr (.inr (.inl ⟨rfl, e⟩))
    by_cases h3 : r = .cmd
    · subst h3
      exact .inr (.inr (.inr (.inl ⟨rfl, by simpa [Reg.guarded] using hn, e⟩)))
    exact .inr (.inr (.inr (.inr ⟨h1, h2, h3, hn, e⟩)))

/-- What a step can do when it goes on, in the terms of Safety.lean: a read; a write to a reserved offset; a write to a
register; a completion; the engine's turn with nothing in flight; a reset. -/
theorem step_cases {s t : State} (h : step s = .next t) :
    (∃ addr rest d n, s.events = .read addr 4 :: rest ∧ t = { s with events := rest, rdata := d, draws := n }) ∨
    (∃ addr v rest, s.events = .write addr 4 v :: rest ∧ (∀ r v, ¬s.hostWrites r v) ∧ t = s.withEvents rest) ∨
    (∃ r v rest, s.events = wr r v :: rest ∧ t = (s.withEvents rest).busWrite (some r) v) ∨
    (∃ i rest, s.completes i ∧ (∀ r v, ¬s.hostWrites r v) ∧ ¬s.resets ∧ exec i (s.withEvents rest) = .next t) ∨
    (∃ rest, s.inflight = none ∧ (∀ r v, ¬s.hostWrites r v) ∧ ¬s.resets ∧ t = s.withEvents rest) ∨
    (∃ rest, s.events = .reset :: rest ∧ t = (s.withEvents rest).resetNow) := by
  obtain ⟨a, rest, he, hp, rfl⟩ | ⟨a, v, rest, he, hp, rfl⟩ | ⟨rest, he, hc⟩ | ⟨he, hc⟩ | ⟨rest, he, rfl⟩ := step_next h
  · exact .inl ⟨a, rest, _, _, he, State.busRead_eq _ _⟩
  · cases hr : Reg.ofOffset (a - Config.base) with
    | none =>
      refine .inr (.inl ⟨a, v, rest, he, ?_, rfl⟩)
      rintro r w ⟨rest', h'⟩
      rw [he] at h'
      simp only [wr, List.cons.injEq, Event.write.injEq] at h'
      obtain ⟨⟨rfl, -, -⟩, -⟩ := h'
      simp at hr
    | some r =>
      refine .inr (.inr (.inl ⟨r, v, rest, ?_, rfl⟩))
      obtain ⟨h1, h2, -, h4⟩ := hp
      have hb : Config.base % 4 = 0 := by unfold Config.base; omega
      have := Reg.offset_of_ofOffset hr (by omega)
      rw [he, wr, this]
      congr 2
      omega
  · have nw : ∀ r v, ¬s.hostWrites r v := by
      rintro r v ⟨rest', h'⟩; rw [he] at h'; simp [wr] at h'
    have nr : ¬s.resets := by rintro ⟨rest', h'⟩; rw [he] at h'; simp at h'
    obtain ⟨h1, rfl⟩ | ⟨c, i, h1, h2, h3⟩ := engineStep_next hc
    · exact .inr (.inr (.inr (.inr (.inl ⟨rest, h1, nw, nr, rfl⟩))))
    · exact .inr (.inr (.inr (.inl ⟨i, rest, ⟨.inr ⟨rest, he⟩, c, h1, h2⟩, nw, nr, h3⟩)))
  · have nw : ∀ r v, ¬s.hostWrites r v := by
      rintro r v ⟨rest', h'⟩; rw [he] at h'; simp [wr] at h'
    have nr : ¬s.resets := by rintro ⟨rest', h'⟩; rw [he] at h'; simp at h'
    have hs : s.withEvents [] = s := by rw [State.withEvents, ← he]
    obtain ⟨h1, rfl⟩ | ⟨c, i, h1, h2, h3⟩ := engineStep_next hc
    · exact .inr (.inr (.inr (.inr (.inl ⟨[], h1, nw, nr, hs.symm⟩))))
    · exact .inr (.inr (.inr (.inl ⟨i, [], ⟨.inl he, c, h1, h2⟩, nw, nr, by rw [hs]; exact h3⟩)))
  · exact .inr (.inr (.inr (.inr (.inr ⟨rest, he, rfl⟩))))

/-- A run of `k + 1` steps begins with one (Host.Core.run). -/
theorem run_succ {s t : State} (k : Nat) (h : step s = .next t) :
    Host.Core.run core (k + 1) s = Host.Core.run core k t := by
  have h' : core.step s = .next t := h
  simp only [Host.Core.run, h']

end Sys2Proof.Machine
end

