-- ==== Sys2Proof/Tests/Slice0.lean ====
section
/-! SUPPORT. Small tests, their expected values from spec/95_test_vectors.md or worked out by hand from the rule named,
and for each statement with hypotheses a witness: a concrete state and operands that meet all of them. -/

namespace Sys2Proof.Tests

open Sys2Proof.Machine

/-! ## Helpers -/

/-- The reset state with events to come. -/
def idle (es : List Event) : State := State.reset.withEvents es

/-- The reset state with a command accepted and events to come. -/
def inFlight (i : Instr) (es : List Event) : State := (State.reset.accept (encode i)).withEvents es

/-- The state an answer goes on with. -/
def goesOn : Answer → Option State
  | .next t => some t
  | .fault _ => none
  | .refused _ => none

/-- The state after a command's completion. -/
def after (i : Instr) (s : State) : State := (goesOn (exec i s)).getD s

/-- The state after a completion that was a command's own step from reset, placed where the engine fetches. -/
def placed (w : Nat) (s : State) : State := (goesOn (step (s.withFetchWord 32 w))).getD s

/-- The key and the block of the vector V1, as words. -/
def v1 : Vector Word 4 := #v[0x01234567#32, 0x89ABCDEF#32, 0xFEDCBA98#32, 0x76543210#32]

/-- The digest of "abc" (vector V3). -/
def v3 : Vector Word 8 :=
  #v[0x66C7F0F4#32, 0x62EEEDD9#32, 0xD1F2D46B#32, 0xDC10E4E2#32, 0x4167C487#32, 0x5CF2F7A2#32, 0x297DA02B#32, 0x8F4BA8E0#32]

/-! ## Well-formedness: each check refuses an ill-formed term -/

theorem test_update_count_zero_refused : ¬WellFormed (.sm3Update 0#7) := by decide

theorem test_update_count_65_refused : ¬WellFormed (.sm3Update 65#7) := by decide

theorem test_ghash_count_zero_refused : ¬WellFormed (.ghashUpdate 0#5) := by decide

theorem test_ghash_count_17_refused : ¬WellFormed (.ghashUpdate 17#5) := by decide

theorem test_counts_at_their_bounds : WellFormed (.sm3Update 1#7) ∧ WellFormed (.sm3Update 64#7) ∧
    WellFormed (.ghashUpdate 1#5) ∧ WellFormed (.ghashUpdate 16#5) := by decide

/-! ## Decoding: words written out from the patterns of 30_encoding.md R87 -/

theorem test_decode_system : decode 0b00000000000000000000000000000000#32 = .instr .nop ∧
    decode 0b00000000000000000000000000000001#32 = .instr .zeroize := by decide

theorem test_decode_sm4 : decode 0b00000000000000000000000000010000#32 = .instr .sm4Keyexp ∧
    decode 0b00000000000000000000000000010001#32 = .instr .sm4Enc ∧
    decode 0b00000000000000000000000000010010#32 = .instr .sm4Dec := by decide

theorem test_decode_sm3 : decode 0b00000000000000000000000100100000#32 = .instr (.sm3Init .leaf) ∧
    decode 0b00000000000000000000001100100001#32 = .instr (.sm3Update 3#7) ∧
    decode 0b00000000000000000000000000100010#32 = .instr .sm3Final ∧
    decode 0b00000000000000000000000000100011#32 = .instr .sm3Compress := by decide

theorem test_decode_merkle : decode 0b00000000000000000000000000101000#32 = .instr .merkleNode := by decide

theorem test_decode_ghash : decode 0b00000000000000000000000000110000#32 = .instr .gfMul ∧
    decode 0b00000000000000000001000000110001#32 = .instr (.ghashUpdate 16#5) := by decide

/-- Vectors Y8. -/
theorem test_undefined_opcodes : decode 0x00000003#32 = .illegalOpcode ∧ decode 0x00000013#32 = .illegalOpcode ∧
    decode 0x00000029#32 = .illegalOpcode ∧ decode 0x0000007F#32 = .illegalOpcode := by decide

/-- Vectors Y6, Y7, Y9, S12, H16, H17, H18, G12, G13, M7. -/
theorem test_illegal_arguments : decode 0x00000100#32 = .illegalArgument ∧ decode 0x00010000#32 = .illegalArgument ∧
    decode 0x0000FF00#32 = .illegalArgument ∧ decode 0x00000110#32 = .illegalArgument ∧
    decode 0x00004121#32 = .illegalArgument ∧ decode 0x00000320#32 = .illegalArgument ∧
    decode 0x00000122#32 = .illegalArgument ∧ decode 0x00001131#32 = .illegalArgument ∧
    decode 0x00002031#32 = .illegalArgument ∧ decode 0x00000128#32 = .illegalArgument := by decide

/-! ## SM4 -/

/-- Vectors PR2, PR4, PR5, PR8, PR9, PR12. -/
theorem test_sm4_primitives : tau 0x00010203#32 = 0xD690E9FE#32 ∧ linL 1#32 = 0x01040405#32 ∧
    linLp 1#32 = 0x00802001#32 ∧ transT 1#32 = 0x1C424205#32 ∧ transTp 1#32 = 0x446FA721#32 ∧
    ck 9 = 0xFC030A11#32 ∧ ck 31 = 0x646B7279#32 := by decide +kernel

/-- The corners of the S-box table (41_sm4.md R130): first and last of the rows 0, 7, 8 and F. -/
theorem test_sbox_corners : sbox 0x00#8 = 0xD6#8 ∧ sbox 0x0F#8 = 0x05#8 ∧ sbox 0x70#8 = 0xD4#8 ∧
    sbox 0x7F#8 = 0x9E#8 ∧ sbox 0x80#8 = 0xEA#8 ∧ sbox 0x8F#8 = 0xA1#8 ∧ sbox 0xF0#8 = 0x18#8 ∧
    sbox 0xFF#8 = 0x48#8 := by decide +kernel

/-- Vectors S1 and V2. -/
theorem test_sm4_keyexp : let t := after .sm4Keyexp { State.reset with sm4Key := v1 }
    t.rk[0] = 0xF12186F9#32 ∧ t.rk[1] = 0x41662B61#32 ∧ t.rk[31] = 0x9124A012#32 ∧ t.statusWord = 0x0000000A#32 := by
  decide +kernel

/-- Vectors S2 and V1. -/
theorem test_sm4_enc : (after .sm4Enc { State.reset with rk := keyExp v1, sm4Din := v1 }).sm4Dout =
    #v[0x681EDF34#32, 0xD206965E#32, 0x86B3E94F#32, 0x536E4246#32] := by decide +kernel

/-- Vector S5. -/
theorem test_sm4_dec : (after .sm4Dec { State.reset with rk := keyExp v1 }).sm4Dout =
    #v[0xF7D6B57E#32, 0xD4BA6AE1#32, 0xA630FAC4#32, 0x505C98A0#32] := by decide +kernel

/-! ## SM3 and Merkle -/

/-- Vectors PR10, PR11, H19. -/
theorem test_sm3_primitives : p0 1#32 = 0x00020201#32 ∧ p1 1#32 = 0x00808001#32 ∧
    pad 3#64 = 0x80#8 :: (List.replicate 52 0#8 ++ [0, 0, 0, 0, 0, 0, 0, 0x18#8]) := by decide +kernel

/-- Vector H1, and the leaf prefix of 42_sm3.md R181. -/
theorem test_sm3_init : (after (.sm3Init .plain) State.reset).sm3V[0] = 0x7380166F#32 ∧
    (after (.sm3Init .plain) State.reset).cnt = 0#64 ∧ (after (.sm3Init .leaf) State.reset).cnt = 1#64 := by
  decide +kernel

/-- Vector H13: the byte goes to BUF[63], one compression, the counter wraps. -/
theorem test_sm3_update_wraps :
    let t := after (.sm3Update 1#7)
      { State.reset with sm3V := sm3IV, cnt := 0xFFFFFFFFFFFFFFFF#64, sm3Msg := State.reset.sm3Msg.set 0 0xAB000000#32 }
    t.sm3V[0] = 0x5C36DD2C#32 ∧ t.cnt = 0#64 ∧ t.statusWord = 0x00000002#32 := by decide +kernel

/-- Vector H3, from the state of H2. -/
theorem test_sm3_final :
    let t := after .sm3Final { State.reset with
      sm3V := sm3IV, cnt := 3#64, buf := ((State.reset.buf.set 0 0x61#8).set 1 0x62#8).set 2 0x63#8 }
    t.sm3V = v3 ∧ t.cnt = 64#64 := by decide +kernel

/-- Vector H11. -/
theorem test_sm3_compress :
    let t := after .sm3Compress { State.reset with
      sm3V := sm3IV, sm3Msg := (State.reset.sm3Msg.set 0 0x61626380#32).set 15 0x00000018#32 }
    t.sm3V = v3 ∧ t.cnt = 0#64 := by decide +kernel

/-- Vector M5, run as the step of a placed word. -/
theorem test_merkle_node : (placed 0x28 State.reset).sm3V[0] = 0x5EC1420C#32 ∧
    (placed 0x28 State.reset).sm3V[7] = 0x9E605291#32 ∧ (placed 0x28 State.reset).cnt = 128#64 := by decide +kernel

/-! ## GHASH -/

/-- Vectors G3 and G6. -/
theorem test_gf_mul :
    (after .gfMul { State.reset with ghX := 1#128, ghH := 1#128 }).ghX = 0xE6080000000000000000000000000003#128 ∧
    (after .gfMul { State.reset with
      ghX := 0x00112233445566778899AABBCCDDEEFF#128, ghH := 0xFFEEDDCCBBAA99887766554433221100#128 }).ghX =
      0xE1E94D05852D89C11C14B0F878D0743C#128 := by decide +kernel

/-- Vectors G7 and G8. -/
theorem test_ghash_update :
    let s : State := { State.reset with
      ghH := 0x2677F46B09C122CC975533105BD4A22A#128, ghIn := 0x0123456789ABCDEFFEDCBA9876543210#128 }
    (after (.ghashUpdate 16#5) s).ghX = 0x6DED580461308B747CF146B29E828560#128 ∧
    (after (.ghashUpdate 3#5) s).ghX = 0x7BB6CA695FD5CC36FE95BAEAD4B60B14#128 := by decide +kernel

/-! ## System commands, status, bus -/

/-- Vectors Y1 and Y2. -/
theorem test_nop : (after .nop State.reset).statusWord = 0x00000002#32 ∧
    (inFlight .nop []).statusWord = 0x00000001#32 ∧ (after .nop { State.reset with ie := true }).irq = true := by decide

/-- Vector Y5: ERR and its code are kept, KEYVALID is not. -/
theorem test_zeroize :
    let t := after .zeroize { State.reset with
      ie := true, err := true, errCode := 1#4, keyValid := true, sm4Din := v1, cnt := 7#64, ghX := 5#128 }
    t.statusWord = 0x00000106#32 ∧ t.ctrlWord = 1#32 ∧ t.sm4Din = State.reset.sm4Din ∧ t.cnt = 0#64 ∧ t.ghX = 0#128 := by
  decide

/-- Vectors S8 and Y10: rejected for want of a key; the second error is not recorded. -/
theorem test_issue_without_key : (State.reset.issue 0x00000011#32).statusWord = 0x00000306#32 ∧
    ((State.reset.issue 0x00000011#32).issue 0x00000002#32).statusWord = 0x00000306#32 := by decide

/-- Vector Y11: the dropped write. -/
theorem test_write_while_busy :
    ((inFlight (.sm3Init .plain) []).busWrite (some (.sm3Msg 0)) 0x11223344#32).statusWord = 0x00000405#32 ∧
    ((inFlight (.sm3Init .plain) []).busWrite (some (.sm3Msg 0)) 0x11223344#32).sm3Msg[0] = 0#32 := by decide

/-- Vectors Y3 and Y13: STATUS and CTRL writes. -/
theorem test_status_and_ctrl_writes :
    ((State.reset.issue 0x00000011#32).busWrite (some .status) 0x00000006#32).statusWord = 0#32 ∧
    ((inFlight .nop []).busWrite (some .ctrl) 0xFFFFFFFF#32).ctrlWord = 1#32 := by decide

/-- Vector Y14, and the places of a group's words (10_state.md R45). -/
theorem test_reads : (State.reset.busRead (Reg.ofOffset 0x000)).rdata = 0x534D4331#32 ∧
    (State.reset.busRead (Reg.ofOffset 0xFFC)).rdata = 0#32 ∧
    (({ State.reset with ghX := 0x00112233445566778899AABBCCDDEEFF#128 } : State).busRead (Reg.ofOffset 0x314)).rdata =
      0x44556677#32 ∧
    (({ State.reset with cnt := 0x1122334455667788#64 } : State).busRead (Reg.ofOffset 0x224)).rdata =
      0x11223344#32 := by decide

/-- Vector Y17. -/
theorem test_reset_while_busy : (inFlight .merkleNode []).resetNow.statusWord = 0#32 ∧
    (inFlight .merkleNode []).resetNow.inflight = none := by decide

/-- A word of the table, as the host asks for it. -/
theorem test_decodeTableWord : decodeTableWord 32 0x00000321 = some (.sm3Update 3#7) ∧
    decodeTableWord 32 0x00000040 = none := by decide

/-! ## Witnesses: encoding and issue -/

theorem witness_wellFormed : WellFormed (.sm3Update 64#7) ∧ WellFormed (.ghashUpdate 16#5) ∧ WellFormed .sm4Dec := by
  decide

theorem witness_decoded : decode 0x00000321#32 = .instr (.sm3Update 3#7) := by decide

theorem witness_row_match : (⟨.sm3Update, 0x00000021#32, 0xFFFF80FF#32⟩ : OpcodeRow) ∈ opcodeTable ∧
    0x00000321#32 &&& 0xFFFF80FF#32 = 0x00000021#32 := by decide

/-- The first and the last opcode of each undefined range, written while idle. -/
theorem witness_undefined_opcodes : ∀ op ∈ [0x02, 0x0F, 0x13, 0x1F, 0x24, 0x27, 0x29, 0x2F, 0x32, 0xFF],
    (idle [wr .cmd (BitVec.ofNat 32 op)]).busy = false ∧ decode (BitVec.ofNat 32 op) = .illegalOpcode := by decide

theorem witness_engine_step : (inFlight .sm3Final []).inflight = some ⟨0x22#8, 0#8⟩ ∧
    decode (Inflight.word ⟨0x22#8, 0#8⟩) = .instr .sm3Final ∧ (inFlight .sm3Final []).events = [] ∧
    (inFlight .sm3Final [.complete]).events = [.complete] := by decide

theorem witness_written_command : WellFormed (.ghashUpdate 16#5) ∧ (idle []).busy = false ∧
    (needsKey (.ghashUpdate 16#5) = true → (idle []).keyValid = true) ∧
    (idle [cmd (.ghashUpdate 16#5), .complete]).events = [cmd (.ghashUpdate 16#5), .complete] :=
  ⟨by decide, by decide, by decide, rfl⟩

/-- A block command with its key schedule held. -/
theorem witness_written_block_command : needsKey .sm4Enc = true ∧ ({ State.reset with keyValid := true } : State).keyValid = true ∧
    ({ State.reset with keyValid := true } : State).busy = false := by decide

/-- One word for each outcome of issue: undefined, reserved bit, field value, key missing, accepted. -/
theorem witness_issue_outcomes : decode 0x00000040#32 = .illegalOpcode ∧ decode 0x00002031#32 = .illegalArgument ∧
    decode 0x00000021#32 = .illegalArgument ∧ (0x11#32).extractLsb' 0 8 = 0x11#8 ∧ (idle []).keyValid = false ∧
    (idle []).busy = false ∧ decode 0x00004021#32 = .instr (.sm3Update 64#7) := by decide

/-! ## Witnesses: bus accesses -/

theorem witness_reset_event : (inFlight .sm4Keyexp [.reset]).events = .reset :: [] := rfl

/-- The offsets where the clauses of the read map meet, all inside the window and aligned. -/
theorem witness_read_offsets : ∀ off ∈ [0x000, 0x00C, 0x10C, 0x110, 0x11C, 0x120, 0x12C, 0x130, 0x200, 0x21C, 0x220, 0x224,
    0x228, 0x240, 0x27C, 0x280, 0x300, 0x30C, 0x310, 0x320, 0x32C, 0x330, 0xFFC],
    off < 0x1000 ∧ off % 4 = 0 ∧ (idle [.read (Config.base + off) 4]).inflight = none := by
  intro off h
  refine ⟨?_, ?_, rfl⟩ <;> revert off <;> decide

/-- A register of the write set, one outside it, and a key register in ZEROIZE's. -/
theorem witness_reads_in_flight : inWriteSet .sm4Enc (.sm4Dout 3) = true ∧ inWriteSet .sm4Enc (.sm4Din 0) = false ∧
    inWriteSet .zeroize (.sm4Key 0) = true ∧ (inFlight .zeroize [rd (.sm4Key 0)]).inflight = some ⟨0x01#8, 0#8⟩ ∧
    decode (Inflight.word ⟨0x01#8, 0#8⟩) = .instr .zeroize := by decide

theorem witness_proper_access (r : Reg) : properAccess (Config.base + r.offset) 4 := by
  have h := Reg.offset_aligned r
  have hb : Config.base % 4 = 0 := by unfold Config.base; omega
  exact ⟨by omega, by unfold Config.windowSize; omega, rfl, by omega⟩

theorem witness_write_while_busy : (inFlight .nop [wr (.ghX 3) 1#32]).busy = true ∧ Reg.guarded (.ghX 3) = true ∧
    (inFlight .nop [wr (.ghX 3) 1#32]).events = wr (.ghX 3) 1#32 :: [] ∧
    (∃ t, engineStep ((inFlight .nop [wr (.ghX 3) 1#32]).withEvents []) = .next t) :=
  ⟨rfl, rfl, rfl, _, rfl⟩

theorem witness_idle_write : (idle [wr .sm3CntHi 1#32]).busy = false ∧ Reg.guarded .sm3CntHi = true ∧
    Reg.sm3CntHi ≠ .cmd ∧ (idle [wr (.sm4Key 3) 1#32]).events = wr (.sm4Key 3) 1#32 :: [] := by
  exact ⟨rfl, rfl, by decide, rfl⟩

theorem witness_read_only_write : (inFlight .nop [wr (.sm4Dout 0) 5#32]).events = wr (.sm4Dout 0) 5#32 :: [] ∧
    (idle [wr .id 5#32]).events = wr .id 5#32 :: [] := ⟨rfl, rfl⟩

/-- The ends of the reserved ranges hold no register, their neighbours do (10_state.md R41). -/
theorem witness_reserved : (∀ off ∈ [0x010, 0x0FC, 0x130, 0x1FC, 0x228, 0x23C, 0x280, 0x2FC, 0x330, 0xFFC],
    Reg.ofOffset off = none) ∧
    ∀ off ∈ [0x00C, 0x100, 0x12C, 0x200, 0x224, 0x240, 0x27C, 0x300, 0x32C], (Reg.ofOffset off).isSome = true := by decide

theorem witness_status_write : (inFlight .nop [wr .status 6#32]).events = wr .status 6#32 :: [] ∧
    (6#32).extractLsb' 1 1 = 1#1 ∧ (6#32).extractLsb' 2 1 = 1#1 ∧ (0xFFFFFFF9#32).extractLsb' 1 1 ≠ 1#1 ∧
    (idle [wr .ctrl 1#32]).events = wr .ctrl 1#32 :: [] := ⟨rfl, by decide, by decide, by decide, rfl⟩

/-- A misaligned word access and an aligned half-word access, both inside the window. -/
theorem witness_bad_access : Config.base ≤ Config.base + 2 ∧ Config.base + 2 < Config.base + 0x1000 ∧
    (Config.base + 2) % 4 ≠ 0 ∧ (2 : Nat) ≠ 4 := by
  have hb : Config.base % 4 = 0 := by unfold Config.base; omega
  omega

theorem witness_outside_window : Config.base + 0x1000 ≤ Config.base + 0x1000 ∧
    (idle [.read (Config.base + 0x1000) 4]).events = .read (Config.base + 0x1000) 4 :: [] := ⟨Nat.le_refl _, rfl⟩

/-! ## Witnesses: steps of each kind -/

theorem witness_accepts : (idle [cmd .nop]).accepts ∧ ∃ t, step (idle [cmd .nop]) = .next t := by
  have hd : decode (encode .nop) = .instr .nop := by decide
  exact ⟨⟨encode .nop, .nop, ⟨[], rfl⟩, rfl, hd, by decide⟩,
    _, step_cmd_accept (i := .nop) rfl rfl hd (by decide)⟩

theorem witness_rejects : (idle [cmd .sm4Enc]).rejects ∧ ∃ t, step (idle [cmd .sm4Enc]) = .next t := by
  refine ⟨⟨encode .sm4Enc, ⟨[], rfl⟩, rfl, ?_⟩, _, step_cmd_idle rfl rfl⟩
  rintro ⟨w, i, ⟨rest, hw⟩, -, hd, hk⟩
  obtain ⟨-, rfl, -⟩ := wr_injective hw
  have : i = .sm4Enc := by
    have h : decode (encode .sm4Enc) = .instr .sm4Enc := by decide
    rw [h] at hd
    cases hd
    rfl
  subst this
  exact absurd (hk rfl) (by decide)

theorem witness_drops : (inFlight .nop [wr (.sm4Key 0) 1#32]).drops ∧
    ∃ t, step (inFlight .nop [wr (.sm4Key 0) 1#32]) = .next t :=
  ⟨⟨.sm4Key 0, 1#32, ⟨[], rfl⟩, rfl, rfl⟩, _, step_wr rfl⟩

theorem witness_completes : (inFlight .zeroize [.complete]).completes .zeroize ∧
    (inFlight .sm4Keyexp []).completes .sm4Keyexp ∧ ∃ t, step (inFlight .zeroize [.complete]) = .next t :=
  ⟨⟨.inr ⟨[], rfl⟩, ⟨0x01#8, 0#8⟩, by decide, by decide⟩, ⟨.inl rfl, ⟨0x10#8, 0#8⟩, by decide, by decide⟩, _, rfl⟩

theorem witness_resets : (inFlight .sm3Final [.reset]).resets ∧ ∃ t, step (inFlight .sm3Final [.reset]) = .next t :=
  ⟨⟨[], rfl⟩, _, rfl⟩

theorem witness_status_clear : (idle [wr .status 6#32]).hostWrites .status 6#32 ∧ (6#32).getLsbD 1 = true ∧
    (6#32).getLsbD 2 = true ∧ ∃ t, step (idle [wr .status 6#32]) = .next t :=
  ⟨⟨[], rfl⟩, by decide, by decide, _, step_wr rfl⟩

/-- A step that is none of the writers of the status bits: a read. -/
theorem witness_quiet_step : let s := idle [rd .id]
    ¬s.accepts ∧ ¬s.rejects ∧ ¬s.resets ∧ (∀ i, ¬s.completes i) ∧ (∀ v, ¬s.hostWrites .status v) ∧
      ∃ t, step s = .next t := by
  have hw : ∀ r v, ¬(idle [rd .id]).hostWrites r v := by
    rintro r v ⟨rest, h⟩
    simp [idle, State.withEvents, rd, wr] at h
  refine ⟨?_, ?_, ?_, ?_, fun v => hw _ v, _, step_rd rfl⟩
  · rintro ⟨w, -, h, -⟩
    exact hw _ _ h
  · rintro ⟨w, h, -⟩
    exact hw _ _ h
  · rintro ⟨rest, h⟩
    simp [idle, State.withEvents, rd] at h
  · rintro i ⟨-, c, h, -⟩
    cases h

/-- An error recorded, and a step that keeps it. -/
theorem witness_error_recorded : let s : State := { idle [rd .status] with err := true, errCode := 3#4 }
    s.err = true ∧ ¬s.resets ∧ (∀ v, ¬s.hostWrites .status v) ∧ ∃ t, step s = .next t := by
  refine ⟨rfl, ?_, ?_, _, step_rd rfl⟩
  · rintro ⟨rest, h⟩
    simp [idle, State.withEvents, rd] at h
  · rintro v ⟨rest, h⟩
    simp [idle, State.withEvents, rd, wr] at h

/-- A command in flight meets the invariant, and steps. -/
theorem witness_invariant : (inFlight (.sm3Update 64#7) [.complete]).Inv ∧
    ∃ t, step (inFlight (.sm3Update 64#7) [.complete]) = .next t := by
  refine ⟨⟨rfl, by decide, by decide, by decide, ?_⟩, _, rfl⟩
  intro c hc
  have : c = ⟨0x21#8, 0x40#8⟩ := by
    have h : (inFlight (.sm3Update 64#7) [.complete]).inflight = some ⟨0x21#8, 0x40#8⟩ := by decide
    rw [h] at hc
    cases hc
    rfl
  subst this
  exact ⟨.sm3Update 64#7, by decide, by decide⟩

theorem witness_key_missing_write : (idle [cmd .sm4Dec]).hostWrites .cmd (encode .sm4Dec) ∧
    (idle [cmd .sm4Dec]).keyValid = false ∧ (idle [cmd .sm4Dec]).busy = false := ⟨⟨[], rfl⟩, rfl, rfl⟩

theorem witness_clrst : (idle [clrst]).events = clrst :: [] ∧ (idle [cmd .nop]).err = false ∧
    ({ inFlight .nop [] with ie := true } : State).ie = true := ⟨rfl, rfl, rfl⟩

theorem witness_idle : (idle []).events = [] ∧ (idle []).inflight = none := ⟨rfl, rfl⟩

/-! ## Witnesses: commands and programs -/

theorem witness_update_counts : 1 ≤ (1#7).toNat ∧ (1#7).toNat ≤ 64 ∧ 1 ≤ (64#7).toNat ∧ (64#7).toNat ≤ 64 ∧
    ¬((63#64).toNat % 64 + (1#7).toNat < 64) ∧ (62#64).toNat % 64 + (1#7).toNat < 64 := by decide

theorem witness_ghash_counts : 1 ≤ (1#5).toNat ∧ (1#5).toNat ≤ 16 ∧ 1 ≤ (16#5).toNat ∧ (16#5).toNat ≤ 16 := by decide

theorem witness_final_fill_levels : (55#64).toNat % 64 ≤ 55 ∧ ¬((56#64).toNat % 64 ≤ 55) := by decide

theorem witness_hash_program : let chunks := [(List.replicate 64 0x61#8, 64), (List.replicate 64 0x62#8, 1)]
    (idle (hashProgram .node chunks)).busy = false ∧ legalChunks chunks ∧
      (idle (hashProgram .node chunks)).events = hashProgram .node chunks ++ [] := by
  refine ⟨rfl, ?_, by simp [idle, State.withEvents]⟩
  intro c hc
  simp only [List.mem_cons, List.not_mem_nil, or_false] at hc
  obtain rfl | rfl := hc <;> decide

theorem witness_extend_program : let chunks := [(List.replicate 64 0x61#8, 3)]
    let prog := extendProgram (sm3 [0x61#8]).toList (BitVec.ofNat 64 (padded [0x61#8]).length) chunks
    (idle prog).busy = false ∧ legalChunks chunks ∧ (idle prog).events = prog ++ [] := by
  refine ⟨rfl, ?_, by simp [idle, State.withEvents]⟩
  intro c hc
  simp only [List.mem_cons, List.not_mem_nil, or_false] at hc
  subst hc
  decide

theorem witness_ghash_program : let blocks := [1#128, 2#128]
    (idle (blocks.flatMap ghashBlockProgram)).busy = false ∧ (idle (blocks.flatMap ghashBlockProgram)).ghX = 0#128 ∧
      (idle (blocks.flatMap ghashBlockProgram)).events = blocks.flatMap ghashBlockProgram ++ [] :=
  ⟨rfl, rfl, rfl⟩

/-- Two states that differ only in the key, and a read of the key register. -/
theorem witness_secrets : let s := idle [rd (.sm4Key 0)]
    let s' : State := { s with sm4Key := v1 }
    s ≠ s' ∧ s.withoutSecrets = s'.withoutSecrets ∧ Event.isAccess (rd (.sm4Key 0)) = true ∧
      (∀ r, rd (.sm4Key 0) = rd r → s.readsFree r = false) ∧ s.events = rd (.sm4Key 0) :: [] ∧ ∃ t, step s = .next t := by
  refine ⟨?_, rfl, rfl, fun _ _ => rfl, rfl, _, step_rd rfl⟩
  intro h
  have hk : (idle [rd (.sm4Key 0)]).sm4Key = v1 := congrArg State.sm4Key h
  exact absurd hk (by decide)

/-- A poll and a dropped write while SM3_FINAL is in flight. -/
theorem witness_completion_time : let es := [rd .status, wr (.sm3V 0) 1#32]
    (inFlight .sm3Final (es ++ [.complete])).inflight = some ⟨0x22#8, 0#8⟩ ∧
      (inFlight .sm3Final (es ++ [.complete])).busy = true ∧ decode (Inflight.word ⟨0x22#8, 0#8⟩) = .instr .sm3Final ∧
      (∀ e ∈ es, e.isAccess = true ∧ e.proper) ∧ ∃ u, exec .sm3Final (inFlight .sm3Final (es ++ [.complete])) = .next u := by
  refine ⟨by decide, rfl, by decide, ?_, _, rfl⟩
  intro e he
  simp only [List.mem_cons, List.not_mem_nil, or_false] at he
  obtain rfl | rfl := he
  · exact ⟨rfl, witness_proper_access _⟩
  · exact ⟨rfl, witness_proper_access _⟩

theorem witness_proper_events : (inFlight (.sm3Update 64#7) [.complete, rd (.sm3V 7)]).busy = true ∧
    ∀ e ∈ (inFlight (.sm3Update 64#7) [.complete, rd (.sm3V 7)]).events, e.proper := by
  refine ⟨rfl, ?_⟩
  intro e he
  simp only [inFlight, State.withEvents, List.mem_cons, List.not_mem_nil, or_false] at he
  obtain rfl | rfl := he
  · exact trivial
  · exact witness_proper_access _

end Sys2Proof.Tests
end

section
/-! SUPPORT. The next state of each event that writes STATUS, STATUS after it, and that every other step keeps it
(10_state.md R25 to R29). -/

namespace Sys2Proof.Machine

variable {s t : State}

/-! ## The next state, event by event -/

theorem step_of_accepts (h : s.accepts) : ∃ w rest, step s = .next ((s.withEvents rest).accept w) := by
  obtain ⟨w, i, ⟨rest, he⟩, hb, hd, hk⟩ := h
  exact ⟨w, rest, step_cmd_accept he hb hd hk⟩

theorem step_of_rejects (h : s.rejects) : ∃ e rest, step s = .next ((s.withEvents rest).reject e) := by
  obtain ⟨w, ⟨rest, he⟩, hb, hna⟩ := h
  rw [step_cmd_idle he hb]
  obtain ⟨-, hi⟩ | ⟨-, hi⟩ | ⟨i, -, -, -, hi⟩ | ⟨i, hd, hk, -⟩ := State.issue_cases w (s.withEvents rest)
  · exact ⟨_, rest, by rw [hi]⟩
  · exact ⟨_, rest, by rw [hi]⟩
  · exact ⟨_, rest, by rw [hi]⟩
  · exact absurd ⟨w, i, ⟨rest, he⟩, hb, hd, hk⟩ hna

theorem step_of_drops (h : s.drops) :
    ∃ rest, step s = .next ((s.withEvents rest).raiseError .writeWhileBusy) := by
  obtain ⟨r, v, ⟨rest, he⟩, hg, hb⟩ := h
  exact ⟨rest, by simp [step_wr he, State.busWrite, hg, hb]⟩

theorem step_of_hostWrites_status {v : Word} (h : s.hostWrites .status v) :
    ∃ rest, step s = .next ((s.withEvents rest).writeStatus v) := by
  obtain ⟨rest, he⟩ := h
  exact ⟨rest, step_wr he⟩

theorem step_of_resets (h : s.resets) : ∃ rest, step s = .next (s.withEvents rest).resetNow := by
  obtain ⟨rest, he⟩ := h
  exact ⟨rest, step_reset he⟩

theorem step_of_completes {i : Instr} (h : s.completes i) : ∃ rest, step s = exec i (s.withEvents rest) := by
  obtain ⟨he | ⟨rest, he⟩, c, hc, hd⟩ := h
  · have hs : s.withEvents [] = s := by rw [State.withEvents, ← he]
    exact ⟨[], by rw [step_nil he, engineStep_instr hc hd, hs]⟩
  · exact ⟨rest, by rw [step_complete he, engineStep_instr (s := s.withEvents rest) hc hd]⟩

/-! ## STATUS after each of them -/

/-- The fields of STATUS in a state, in the order of its bits (10_state.md R24). -/
structure State.HasStatus (t : State) (busy done err keyValid : Bool) (errCode : BitVec 4) : Prop where
  busy : t.busy = busy
  done : t.done = done
  err : t.err = err
  keyValid : t.keyValid = keyValid
  errCode : t.errCode = errCode

theorem hasStatus_of_accepts (h : step s = .next t) (ha : s.accepts) :
    t.HasStatus true false s.err s.keyValid s.errCode := by
  obtain ⟨w, rest, hs⟩ := step_of_accepts ha
  cases hs.symm.trans h
  exact ⟨rfl, rfl, rfl, rfl, rfl⟩

theorem hasStatus_of_rejects (h : step s = .next t) (hr : s.rejects) :
    t.HasStatus s.busy true true s.keyValid t.errCode := by
  obtain ⟨e, rest, hs⟩ := step_of_rejects hr
  cases hs.symm.trans h
  constructor <;> simp

theorem hasStatus_of_drops (h : step s = .next t) (hd : s.drops) :
    t.HasStatus s.busy s.done true s.keyValid t.errCode := by
  obtain ⟨rest, hs⟩ := step_of_drops hd
  cases hs.symm.trans h
  constructor <;> simp

theorem hasStatus_of_hostWrites_status {v : Word} (h : step s = .next t) (hw : s.hostWrites .status v) :
    t.HasStatus s.busy (s.done && !v.getLsbD 1) (s.err && !v.getLsbD 2) s.keyValid
      (if v.getLsbD 2 then 0#4 else s.errCode) := by
  obtain ⟨rest, hs⟩ := step_of_hostWrites_status hw
  cases hs.symm.trans h
  exact ⟨rfl, rfl, rfl, rfl, rfl⟩

theorem hasStatus_of_resets (h : step s = .next t) (hr : s.resets) : t.HasStatus false false false false 0#4 := by
  obtain ⟨rest, hs⟩ := step_of_resets hr
  cases hs.symm.trans h
  exact ⟨rfl, rfl, rfl, rfl, rfl⟩

/-- A completion leaves KEYVALID as its command's writes do: see `exec_keyValid`. -/
theorem hasStatus_of_completes {i : Instr} (h : step s = .next t) (hc : s.completes i) :
    t.HasStatus false true s.err t.keyValid s.errCode := by
  obtain ⟨rest, hs⟩ := step_of_completes hc
  obtain ⟨-, hbusy, hdone, -, herr, hcode, -, -, -⟩ := exec_next (hs.symm.trans h)
  exact ⟨hbusy, hdone, herr, rfl, hcode⟩

/-- Only SM4_KEYEXP and ZEROIZE have KEYVALID in their write sets (40_system.md R108). -/
theorem exec_keyValid {i : Instr} (h : exec i s = .next t) (h1 : i ≠ .sm4Keyexp) (h2 : i ≠ .zeroize) :
    t.keyValid = s.keyValid := by
  cases i with
  | sm4Keyexp => exact absurd rfl h1
  | zeroize => exact absurd rfl h2
  | _ =>
    injection h with h
    simp [← h]

/-! ## Every other step -/

/-- STATUS is the same in both states. -/
abbrev State.KeepsStatus (s t : State) : Prop := t.HasStatus s.busy s.done s.err s.keyValid s.errCode

/-- A write to a register keeps STATUS, or is an event that writes it. -/
theorem hostWrites_status_cases {r : Reg} {v : Word} {rest : List Event} (he : s.events = wr r v :: rest) :
    s.KeepsStatus ((s.withEvents rest).busWrite (some r) v) ∨ s.accepts ∨ s.rejects ∨ s.drops ∨
      ∃ v, s.hostWrites .status v := by
  obtain ⟨hg, hb, -⟩ | ⟨-, hw⟩ | ⟨rfl, -⟩ | ⟨rfl, hb, -⟩ | ⟨h1, h2, h3, -, hw⟩ :=
    State.busWrite_reg_cases r v (s.withEvents rest)
  · exact .inr (.inr (.inr (.inl ⟨r, v, ⟨rest, he⟩, hg, hb⟩)))
  · exact .inl (hw ▸ ⟨rfl, rfl, rfl, rfl, rfl⟩)
  · exact .inr (.inr (.inr (.inr ⟨v, rest, he⟩)))
  · by_cases ha : s.accepts
    · exact .inr (.inl ha)
    · exact .inr (.inr (.inl ⟨v, ⟨rest, he⟩, hb, ha⟩))
  · obtain ⟨-, hbusy, hdone, herr, hcode, hkey, -, -, -⟩ := State.store_control r v (s.withEvents rest) h1 h2 h3
    exact .inl (hw ▸ ⟨hbusy, hdone, herr, hkey, hcode⟩)

/-- A step keeps STATUS, or is one of the six kinds that write it. -/
theorem step_status_cases (h : step s = .next t) :
    s.KeepsStatus t ∨ (∃ i, s.completes i) ∨ s.resets ∨ s.accepts ∨ s.rejects ∨ s.drops ∨
      ∃ v, s.hostWrites .status v := by
  obtain ⟨a, rest, d, n, -, rfl⟩ | ⟨a, v, rest, -, -, rfl⟩ | ⟨r, v, rest, he, rfl⟩ | ⟨i, rest, hc, -⟩ |
    ⟨rest, -, -, -, rfl⟩ | ⟨rest, he, -⟩ := step_cases h
  · exact .inl ⟨rfl, rfl, rfl, rfl, rfl⟩
  · exact .inl ⟨rfl, rfl, rfl, rfl, rfl⟩
  · exact (hostWrites_status_cases he).imp_right fun hw => .inr (.inr hw)
  · exact .inr (.inl ⟨i, hc⟩)
  · exact .inl ⟨rfl, rfl, rfl, rfl, rfl⟩
  · exact .inr (.inr (.inl ⟨rest, he⟩))

/-! ## A block command without its key schedule -/

/-- It is rejected when written while idle (40_system.md R103). -/
theorem rejects_of_key_missing {w : Word} {i : Instr} (hw : s.hostWrites .cmd w) (hd : decode w = .instr i)
    (hn : needsKey i = true) (hk : s.keyValid = false) (hb : s.busy = false) : s.rejects := by
  refine ⟨w, hw, hb, ?_⟩
  rintro ⟨w', i', ⟨rest', he'⟩, -, hd', hk'⟩
  obtain ⟨rest, he⟩ := hw
  obtain ⟨-, rfl, -⟩ := wr_injective (he.symm.trans he')
  cases Decoded.instr.inj (hd.symm.trans hd')
  exact absurd (hk' hn) (by simp [hk])

end Sys2Proof.Machine
end

section
/-! SUPPORT. The reserved offsets and the reset values of the register map (10_state.md R41, R46). -/

namespace Sys2Proof.Machine

/-- The five reserved ranges (10_state.md R41). -/
abbrev ReservedOffset (off : Nat) : Prop :=
  (0x010 ≤ off ∧ off ≤ 0x0FC) ∨ (0x130 ≤ off ∧ off ≤ 0x1FC) ∨ (0x228 ≤ off ∧ off ≤ 0x23C) ∨
    (0x280 ≤ off ∧ off ≤ 0x2FC) ∨ (0x330 ≤ off ∧ off ≤ 0xFFC)

/-- Below 0x330 the register map is a table of 204 aligned offsets; from there on it has no register. -/
theorem reservedOffset_iff_ofOffset {off : Nat} (hlt : off < 0x1000) (ha : off % 4 = 0) :
    ReservedOffset off ↔ Reg.ofOffset off = none := by
  by_cases h : 0x330 ≤ off
  · exact iff_of_true (by omega) (Reg.ofOffset_above h)
  · have table : ∀ k : Fin 204, ReservedOffset (4 * k) ↔ Reg.ofOffset (4 * k) = none := by decide +kernel
    obtain ⟨k, rfl⟩ : ∃ k, off = 4 * k := ⟨off / 4, by omega⟩
    exact table ⟨k, by omega⟩

theorem Reg.ofOffset_eq_none_iff {off : Nat} (ha : off % 4 = 0) :
    Reg.ofOffset off = none ↔ ∀ r : Reg, r.offset ≠ off := by
  constructor
  · rintro h r rfl
    simp at h
  · intro h
    cases hr : Reg.ofOffset off with
    | none => rfl
    | some r => exact absurd (Reg.offset_of_ofOffset hr ha) (h r)

/-- An access at an aligned offset of the window is carried out (20_memory.md R61, R64, R65). -/
theorem busAccess_base_add {off : Nat} (hlt : off < 0x1000) (ha : off % 4 = 0) (act : Option Reg → State) :
    busAccess (Config.base + off) 4 act = .next (act (Reg.ofOffset off)) := by
  have hb : Config.base % 4 = 0 := by unfold Config.base; omega
  rw [busAccess_proper ⟨by omega, by unfold Config.windowSize; omega, rfl, by omega⟩, Nat.add_sub_cancel_left]

@[simp] theorem quadWord_zero (i : Fin 4) : quadWord 0#128 i = 0#32 := by simp [quadWord]

/-- Every register but ID reads 0 after reset (10_state.md R46). -/
theorem peek_reset (r : Reg) : State.reset.peek r = if r = .id then 0x534D4331#32 else 0#32 := by
  cases r with
  | status | sm3CntLo | sm3CntHi => decide
  | _ => simp [State.peek, State.reset, State.ctrlWord, flagWord]

end Sys2Proof.Machine
end

section
/-! PROOFS. The statements of the family 10_state.md. -/

namespace Sys2Proof.Proofs

open Sys2Proof.Machine

/-- Settles O9: the host-visible registers by `peek_reset`, the rest field by field. -/
theorem resetLeavesTheListedValues : Obligations.ResetLeavesTheListedValues := by
  refine ⟨peek_reset, rfl, rfl, rfl, rfl, rfl, rfl, rfl, ?_, ?_, ?_, rfl⟩ <;> intro i <;> simp [State.reset]

/-- Settles O17: the reserved ranges are where the register map has no register, and an access there is carried out
on none. -/
theorem reservedOffsetsReadZeroAndIgnoreWrites : Obligations.ReservedOffsetsReadZeroAndIgnoreWrites := by
  intro off hlt ha
  have hmap := reservedOffset_iff_ofOffset hlt ha
  refine ⟨hmap.trans (Reg.ofOffset_eq_none_iff ha), fun hr s rest => ?_⟩
  have hnone : Reg.ofOffset off = none := hmap.1 hr
  constructor
  · intro he
    rw [step_cons he, handle, busAccess_base_add hlt ha, hnone]
    rfl
  · intro v he
    rw [step_cons he, handle, busAccess_base_add hlt ha, hnone]
    rfl

/-- Settles O27: of the events that write STATUS, only acceptance, completion and reset write BUSY. -/
theorem busyIsWrittenOnlyByAcceptanceCompletionReset :
    Obligations.BusyIsWrittenOnlyByAcceptanceCompletionReset := by
  intro s t h
  refine ⟨fun ha => (hasStatus_of_accepts h ha).busy, ?_, fun hna hnc hnr => ?_⟩
  · rintro (⟨i, hc⟩ | hr)
    · exact (hasStatus_of_completes h hc).busy
    · exact (hasStatus_of_resets h hr).busy
  · obtain hk | ⟨i, hc⟩ | hr | ha | hrej | hdrop | ⟨v, hw⟩ := step_status_cases h
    · exact hk.busy
    · exact absurd hc (hnc i)
    · exact absurd hr hnr
    · exact absurd ha hna
    · exact (hasStatus_of_rejects h hrej).busy
    · exact (hasStatus_of_drops h hdrop).busy
    · exact (hasStatus_of_hostWrites_status h hw).busy

/-- Settles O28: of the events that write STATUS, only a dropped write and a STATUS write without bit 1 keep DONE. -/
theorem doneIsWrittenOnlyByItsEvents : Obligations.DoneIsWrittenOnlyByItsEvents := by
  intro s t h
  refine ⟨?_, ?_, fun hnc hnrej hna hnr hclear => ?_⟩
  · rintro (⟨i, hc⟩ | hrej)
    · exact (hasStatus_of_completes h hc).done
    · exact (hasStatus_of_rejects h hrej).done
  · rintro (ha | ⟨v, hw, hv⟩ | hr)
    · exact (hasStatus_of_accepts h ha).done
    · rw [(hasStatus_of_hostWrites_status h hw).done, hv, Bool.not_true, Bool.and_false]
    · exact (hasStatus_of_resets h hr).done
  · obtain hk | ⟨i, hc⟩ | hr | ha | hrej | hdrop | ⟨v, hw⟩ := step_status_cases h
    · exact hk.done
    · exact absurd hc (hnc i)
    · exact absurd hr hnr
    · exact absurd ha hna
    · exact absurd hrej hnrej
    · exact (hasStatus_of_drops h hdrop).done
    · rw [(hasStatus_of_hostWrites_status h hw).done, hclear v hw, Bool.not_false, Bool.and_true]

/-- Settles O29: acceptance, completion and a STATUS write without bit 2 keep ERR and ERRCODE. -/
theorem errIsWrittenOnlyByItsEvents : Obligations.ErrIsWrittenOnlyByItsEvents := by
  intro s t h
  have completion : ∀ i, s.completes i → t.err = s.err ∧ t.errCode = s.errCode := fun i hc =>
    ⟨(hasStatus_of_completes h hc).err, (hasStatus_of_completes h hc).errCode⟩
  refine ⟨?_, ?_, completion, fun hnrej hndrop hnr hclear => ?_⟩
  · rintro (hrej | hdrop)
    · exact (hasStatus_of_rejects h hrej).err
    · exact (hasStatus_of_drops h hdrop).err
  · rintro (⟨v, hw, hv⟩ | hr)
    · have hst := hasStatus_of_hostWrites_status h hw
      rw [hst.err, hst.errCode, hv]
      simp
    · exact ⟨(hasStatus_of_resets h hr).err, (hasStatus_of_resets h hr).errCode⟩
  · obtain hk | ⟨i, hc⟩ | hr | ha | hrej | hdrop | ⟨v, hw⟩ := step_status_cases h
    · exact ⟨hk.err, hk.errCode⟩
    · exact completion i hc
    · exact absurd hr hnr
    · exact ⟨(hasStatus_of_accepts h ha).err, (hasStatus_of_accepts h ha).errCode⟩
    · exact absurd hrej hnrej
    · exact absurd hdrop hndrop
    · have hst := hasStatus_of_hostWrites_status h hw
      rw [hst.err, hst.errCode, hclear v hw]
      simp

/-- Settles O30: of the events that write STATUS, only two completions and reset write KEYVALID; a block command
written without it is rejected. -/
theorem keyValidIsWrittenOnlyByItsEvents : Obligations.KeyValidIsWrittenOnlyByItsEvents := by
  intro s t h
  refine ⟨fun hc => ?_, ?_, fun hnk hnz hnr => ?_, fun hkey hb hw => ?_⟩
  · obtain ⟨rest, hs⟩ := step_of_completes hc
    cases hs.symm.trans h
    rfl
  · rintro (hc | hr)
    · obtain ⟨rest, hs⟩ := step_of_completes hc
      cases hs.symm.trans h
      rfl
    · exact (hasStatus_of_resets h hr).keyValid
  · obtain hk | ⟨i, hc⟩ | hr | ha | hrej | hdrop | ⟨v, hw⟩ := step_status_cases h
    · exact hk.keyValid
    · obtain ⟨rest, hs⟩ := step_of_completes hc
      exact exec_keyValid (s := s.withEvents rest) (hs.symm.trans h) (fun hi => hnk (hi ▸ hc)) (fun hi => hnz (hi ▸ hc))
    · exact absurd hr hnr
    · exact (hasStatus_of_accepts h ha).keyValid
    · exact (hasStatus_of_rejects h hrej).keyValid
    · exact (hasStatus_of_drops h hdrop).keyValid
    · exact (hasStatus_of_hostWrites_status h hw).keyValid
  · have hrej : s.rejects := by
      obtain hw | hw := hw
      · exact rejects_of_key_missing (i := .sm4Enc) hw (by decide) rfl hkey hb
      · exact rejects_of_key_missing (i := .sm4Dec) hw (by decide) rfl hkey hb
    obtain ⟨e, rest, hs⟩ := step_of_rejects hrej
    cases hs.symm.trans h
    simp [hb]

/-- Settles O32: IRQ is computed from IE, DONE and ERR, which `clrst`, acceptance and completion set as stated. -/
theorem interruptLineFollowsStatus : Obligations.InterruptLineFollowsStatus := by
  intro s
  refine ⟨by simp [State.irq], fun rest he => ?_, fun ha herr => ?_, fun i hc hie => ?_⟩
  · obtain ⟨rest', hs⟩ := step_of_hostWrites_status ⟨rest, he⟩
    exact ⟨_, hs, by simp [State.irq]⟩
  · obtain ⟨w, rest, hs⟩ := step_of_accepts ha
    exact ⟨_, hs, by simp [State.irq, herr]⟩
  · obtain ⟨rest, hs⟩ := step_of_completes hc
    obtain ⟨u, hu, hui, -⟩ := exec_eq_finish i (s.withEvents rest)
    exact ⟨_, hs.trans hu, by simp [State.irq, hui, hie]⟩

end Sys2Proof.Proofs
end

section
/-! SUPPORT. The undefined opcodes: no row of the opcode map has one, so the decoder refuses the word
(30_encoding.md R85, R86). -/

namespace Sys2Proof

/-- The five undefined ranges (30_encoding.md R86). -/
abbrev UndefinedOpcode (op : Nat) : Prop :=
  (0x02 ≤ op ∧ op ≤ 0x0F) ∨ (0x13 ≤ op ∧ op ≤ 0x1F) ∨ (0x24 ≤ op ∧ op ≤ 0x27) ∨ (0x29 ≤ op ∧ op ≤ 0x2F) ∨
    (0x32 ≤ op ∧ op ≤ 0xFF)

theorem opcodeTable_not_undefined : ∀ row ∈ opcodeTable, ¬UndefinedOpcode (opField row.pattern).toNat := by decide

theorem rowOf_eq_none_of_undefined {b : Byte} (h : UndefinedOpcode b.toNat) : rowOf b = none := by
  cases hrow : rowOf b with
  | none => rfl
  | some row =>
    obtain ⟨hmem, rfl⟩ := rowOf_mem hrow
    exact absurd h (opcodeTable_not_undefined row hmem)

/-- The opcode is checked before the rest of the word (30_encoding.md R85). -/
theorem decode_of_undefined {w : Word} (h : UndefinedOpcode (opField w).toNat) : decode w = .illegalOpcode := by
  simp only [decode, rowOf_eq_none_of_undefined h]

namespace Machine

/-- A CMD write refused for its opcode, made while idle: the very next state (40_system.md R103, R104). -/
theorem step_cmd_illegalOpcode {s : State} {w : Word} {rest : List Event} (h : s.events = wr .cmd w :: rest)
    (hb : s.busy = false) (hd : decode w = .illegalOpcode) :
    step s = .next ((s.withEvents rest).reject .illegalOpcode) := by
  rw [step_cmd_idle h hb, State.issue, hd]

end Machine

end Sys2Proof
end

section
/-! PROOFS. The statements of the family 30_encoding.md. -/

namespace Sys2Proof.Proofs

open Sys2Proof.Machine

/-- Settles O4: the word decodes to no row, so its CMD write is a rejection with ILLEGAL_OPCODE, written out by
`State.reject_eq`. -/
theorem undefinedOpcodesAreRejected : Obligations.UndefinedOpcodesAreRejected := by
  intro s w rest hb he op hop
  rw [step_cmd_illegalOpcode he hb (decode_of_undefined hop), State.reject_eq]
  rfl

end Sys2Proof.Proofs
end

section
/-! SUPPORT. The next state of a CTRL write, a STATUS write and a write dropped while busy, and that no completion
reads ERR or ERRCODE (40_system.md R102, R108, R112, R113). -/

namespace Sys2Proof.Machine

variable {s t : State} {v : Word} {rest : List Event}

/-! ## The next state of a CTRL, a STATUS and a dropped write -/

/-- A STATUS write as one record: a bit that is 1 clears, a bit that is 0 keeps (40_system.md R112). -/
theorem State.writeStatus_eq : s.writeStatus v =
    { s with
      done := if v.getLsbD 1 then false else s.done
      err := if v.getLsbD 2 then false else s.err
      errCode := if v.getLsbD 2 then 0#4 else s.errCode } := by
  unfold State.writeStatus
  cases v.getLsbD 1 <;> cases v.getLsbD 2 <;> simp

theorem step_status_write (he : s.events = wr .status v :: rest) :
    step s = .next { s with
      events := rest
      done := if v.getLsbD 1 then false else s.done
      err := if v.getLsbD 2 then false else s.err
      errCode := if v.getLsbD 2 then 0#4 else s.errCode } :=
  (step_wr he).trans (congrArg _ (State.writeStatus_eq (s := s.withEvents rest)))

theorem step_ctrl_write (he : s.events = wr .ctrl v :: rest) :
    step s = .next { s with events := rest, ie := v.getLsbD 0 } :=
  step_wr he

theorem step_guarded_write_busy {r : Reg} (he : s.events = wr r v :: rest) (hg : r.guarded = true)
    (hb : s.busy = true) : step s = .next ((s.withEvents rest).raiseError .writeWhileBusy) := by
  simp [step_wr he, State.busWrite, hg, hb]

/-- The spec's one-bit field `v[k:k]` against the bit the model tests (00_scope.md R10). -/
theorem extractLsb'_one_eq_one_iff (k : Nat) : v.extractLsb' k 1 = 1#1 ↔ v.getLsbD k = true := by
  rw [BitVec.getLsbD_eq_extractLsb', beq_iff_eq]

/-! ## No command reads ERR or ERRCODE, so a completion takes any values of them along (40_system.md R106, R108) -/

theorem State.msgBytes_with_error (b : Bool) (code : BitVec 4) (n : Nat) :
    ({ s with err := b, errCode := code } : State).msgBytes n = s.msgBytes n := rfl

theorem exec_with_error {i : Instr} (b : Bool) (code : BitVec 4) (h : exec i s = .next t) :
    exec i { s with err := b, errCode := code } = .next { t with err := b, errCode := code } := by
  cases i with
  | _ =>
    cases h
    simp [State.finish, State.zeroized, State.withHash, State.hash, State.msgBytes_with_error]

theorem engineStep_with_error (b : Bool) (code : BitVec 4) (h : engineStep s = .next t) :
    engineStep { s with err := b, errCode := code } = .next { t with err := b, errCode := code } := by
  obtain ⟨hnone, rfl⟩ | ⟨c, i, hc, hd, hx⟩ := engineStep_next h
  · exact engineStep_idle hnone
  · exact (engineStep_instr (s := { s with err := b, errCode := code }) hc hd).trans (exec_with_error b code hx)

end Sys2Proof.Machine
end

section
/-! SUPPORT. The three checks of a command word, opcode, bits that must be 0, field value, as conditions on its fields
(30_encoding.md R82 to R87), and what the decoder answers by them. -/

namespace Sys2Proof

/-! ## The opcode map -/

/-- The opcode of an operation (30_encoding.md R82). -/
def Op.code : Op → Byte
  | .nop => 0x00#8
  | .zeroize => 0x01#8
  | .sm4Keyexp => 0x10#8
  | .sm4Enc => 0x11#8
  | .sm4Dec => 0x12#8
  | .sm3Init => 0x20#8
  | .sm3Update => 0x21#8
  | .sm3Final => 0x22#8
  | .sm3Compress => 0x23#8
  | .merkleNode => 0x28#8
  | .gfMul => 0x30#8
  | .ghashUpdate => 0x31#8

/-- The first bit above an operation's operand field: it and all higher bits must be 0 (30_encoding.md R83). -/
def Op.fieldEnd : Op → Nat
  | .sm3Init => 10
  | .sm3Update => 15
  | .ghashUpdate => 13
  | _ => 8

/-- The opcodes whose operand is the zero form (30_encoding.md R82). -/
abbrev ZeroFormOpcode (op : Nat) : Prop := op ∈ [0x00, 0x01, 0x10, 0x11, 0x12, 0x22, 0x23, 0x28, 0x30]

/-- The defined opcodes (30_encoding.md R82). -/
abbrev DefinedOpcode (op : Nat) : Prop := ZeroFormOpcode op ∨ op = 0x20 ∨ op = 0x21 ∨ op = 0x31

theorem rowOf_eq_none_iff (b : Byte) : rowOf b = none ↔ ¬DefinedOpcode b.toNat := by
  revert b
  decide +kernel

/-- A row fixes the opcode and the bits above the operand field, these to 0 (30_encoding.md R83, R87). -/
theorem opcodeTable_row : ∀ row ∈ opcodeTable,
    row.mask = (BitVec.allOnes 32 <<< row.op.fieldEnd) ||| (BitVec.allOnes 8).setWidth 32 ∧
      row.pattern = row.op.code.setWidth 32 ∧ opField row.pattern = row.op.code ∧ 8 ≤ row.op.fieldEnd := by
  decide

theorem ushiftRight_eq_zero_iff {w : Word} {n : Nat} :
    w >>> n = 0#32 ↔ ∀ k < 32, n ≤ k → w.getLsbD k = false := by
  rw [BitVec.eq_of_getLsbD_eq_iff]
  simp only [BitVec.getLsbD_ushiftRight, BitVec.getLsbD_zero]
  refine ⟨fun h k hk hn => ?_, fun h k hk => ?_⟩
  · rw [← h (k - n) (by omega), Nat.add_sub_of_le hn]
  · by_cases hlt : n + k < 32
    · exact h _ hlt (by omega)
    · exact BitVec.getLsbD_of_ge w _ (by omega)

theorem opField_eq_iff {w : Word} {b : Byte} : opField w = b ↔ ∀ k < 8, w.getLsbD k = b.getLsbD k := by
  rw [BitVec.eq_of_getLsbD_eq_iff]
  exact forall₂_congr fun k hk => by simp [opField, hk]

/-- The mask of a row whose operand field ends at bit `n`, bit by bit (30_encoding.md R87). -/
theorem and_mask_eq_iff_getLsbD {w : Word} {b : Byte} {n : Nat} :
    w &&& ((BitVec.allOnes 32 <<< n) ||| (BitVec.allOnes 8).setWidth 32) = b.setWidth 32 ↔
      ∀ k < 32, (w.getLsbD k && (!decide (k < n) || decide (k < 8))) = b.getLsbD k := by
  rw [BitVec.eq_of_getLsbD_eq_iff]
  refine forall₂_congr fun k hk => ?_
  have hsub : k - n < 32 := by omega
  simp only [BitVec.getLsbD_and, BitVec.getLsbD_or, BitVec.getLsbD_shiftLeft, BitVec.getLsbD_allOnes,
    BitVec.getLsbD_setWidth, hk, hsub, decide_true, Bool.true_and, Bool.and_true]

/-- Matching a row is having its opcode and zeros above its operand field (30_encoding.md R83, R87). -/
theorem and_mask_eq_iff {w : Word} {b : Byte} {n : Nat} (hn : 8 ≤ n) :
    w &&& ((BitVec.allOnes 32 <<< n) ||| (BitVec.allOnes 8).setWidth 32) = b.setWidth 32 ↔
      opField w = b ∧ w >>> n = 0#32 := by
  rw [and_mask_eq_iff_getLsbD, opField_eq_iff, ushiftRight_eq_zero_iff]
  refine ⟨fun h => ⟨fun k hk => ?_, fun k hk hnk => ?_⟩, fun ⟨hlow, hhigh⟩ k hk => ?_⟩
  · simpa [hk] using h k (by omega)
  · have hkn : ¬k < n := by omega
    simpa [hkn, BitVec.getLsbD_of_ge b k (by omega)] using h k hk
  · by_cases h8 : k < 8
    · simp [h8, hlow k h8]
    · rw [BitVec.getLsbD_of_ge b k (by omega)]
      by_cases hkn : k < n
      · simp [h8, hkn]
      · simp [hhigh k hk (by omega)]

/-! ## The legal words -/

/-- What `w` has to meet, above its opcode, to be a command of operation `op` (30_encoding.md R83). -/
abbrev LegalArgument (op : Op) (w : Word) : Prop :=
  w >>> op.fieldEnd = 0#32 ∧ ∃ i, fieldsOf op w = some i ∧ WellFormed i

/-- The words that pass the word's own checks, form by form (40_system.md R103). -/
abbrev LegalCommand (w : Word) : Prop :=
  (ZeroFormOpcode (opField w).toNat ∧ w >>> 8 = 0#32) ∨
    ((opField w).toNat = 0x20 ∧ w >>> 10 = 0#32 ∧ w.extractLsb' 8 2 ≠ 3#2) ∨
    ((opField w).toNat = 0x21 ∧ w >>> 15 = 0#32 ∧ 1 ≤ (w.extractLsb' 8 7).toNat ∧ (w.extractLsb' 8 7).toNat ≤ 64) ∨
    ((opField w).toNat = 0x31 ∧ w >>> 13 = 0#32 ∧ 1 ≤ (w.extractLsb' 8 5).toNat ∧ (w.extractLsb' 8 5).toNat ≤ 16)

theorem LegalCommand.definedOpcode {w : Word} (h : LegalCommand w) : DefinedOpcode (opField w).toNat :=
  h.imp And.left (Or.imp And.left (Or.imp And.left And.left))

theorem exists_decodePfx_iff (f : BitVec 2) : (∃ p, decodePfx f = some p) ↔ f ≠ 3#2 := by
  rw [← Option.isSome_iff_exists]
  revert f
  decide

/-- The four disjuncts of `LegalCommand` are the rule of one operation at a time (30_encoding.md R82, R83). -/
theorem legalCommand_iff {w : Word} {op : Op} (h : opField w = op.code) : LegalCommand w ↔ LegalArgument op w := by
  cases op with
  | sm3Init =>
    simp [LegalCommand, LegalArgument, h, Op.code, Op.fieldEnd, fieldsOf, WellFormed, Instr.wellFormed,
      ← exists_decodePfx_iff]
  | _ => simp [LegalCommand, LegalArgument, h, Op.code, Op.fieldEnd, fieldsOf, WellFormed, Instr.wellFormed]

/-! ## The decoder by these conditions -/

theorem decode_of_not_definedOpcode {w : Word} (h : ¬DefinedOpcode (opField w).toNat) : decode w = .illegalOpcode := by
  simp only [decode, (rowOf_eq_none_iff _).2 h]

/-- Whether a word whose opcode selects a row decodes is decided by the rest of it (30_encoding.md R85). -/
theorem decode_of_row {w : Word} {row : OpcodeRow} (h : rowOf (opField w) = some row) :
    opField w = row.op.code ∧
      ((LegalArgument row.op w ∧ ∃ i, decode w = .instr i ∧ i.op = row.op) ∨
        (¬LegalArgument row.op w ∧ decode w = .illegalArgument)) := by
  obtain ⟨hmem, hop⟩ := rowOf_mem h
  obtain ⟨hmask, hpat, hcode, hend⟩ := opcodeTable_row row hmem
  have hw : opField w = row.op.code := hop.symm.trans hcode
  have hmatch : w &&& row.mask = row.pattern ↔ w >>> row.op.fieldEnd = 0#32 := by
    rw [hmask, hpat, and_mask_eq_iff hend, and_iff_right hw]
  refine ⟨hw, ?_⟩
  by_cases hz : w >>> row.op.fieldEnd = 0#32
  · cases hf : fieldsOf row.op w with
    | none => exact .inr ⟨by simp [LegalArgument, hf], by simp only [decode, h, if_pos (hmatch.2 hz), hf]⟩
    | some i =>
      by_cases hi : WellFormed i
      · exact .inl ⟨⟨hz, i, hf, hi⟩, i, by simp only [decode, h, if_pos (hmatch.2 hz), hf, if_pos hi], fieldsOf_op hf⟩
      · exact .inr ⟨by simp [LegalArgument, hf, hi], by simp only [decode, h, if_pos (hmatch.2 hz), hf, if_neg hi]⟩
  · exact .inr ⟨fun hl => hz hl.1, by simp only [decode, h, if_neg (mt hmatch.1 hz)]⟩

/-- A word with a defined opcode is a command exactly when its other bits are legal (40_system.md R103). -/
theorem decode_of_definedOpcode {w : Word} (h : DefinedOpcode (opField w).toNat) :
    (LegalCommand w ∧ ∃ i, decode w = .instr i ∧ opField w = i.op.code) ∨
      (¬LegalCommand w ∧ decode w = .illegalArgument) := by
  obtain ⟨row, hrow⟩ := Option.ne_none_iff_exists'.1 fun hnone => (rowOf_eq_none_iff _).1 hnone h
  obtain ⟨hw, ⟨hl, i, hi, hop⟩ | ⟨hl, hi⟩⟩ := decode_of_row hrow
  · exact .inl ⟨(legalCommand_iff hw).2 hl, i, hi, hop ▸ hw⟩
  · exact .inr ⟨mt (legalCommand_iff hw).1 hl, hi⟩

theorem decode_of_not_legalCommand {w : Word} (h : DefinedOpcode (opField w).toNat) (hl : ¬LegalCommand w) :
    decode w = .illegalArgument := by
  obtain ⟨hl', -⟩ | ⟨-, hd⟩ := decode_of_definedOpcode h
  · exact absurd hl' hl
  · exact hd

theorem decode_of_legalCommand {w : Word} (h : LegalCommand w) :
    ∃ i, decode w = .instr i ∧ opField w = i.op.code := by
  obtain ⟨-, hi⟩ | ⟨hl, -⟩ := decode_of_definedOpcode h.definedOpcode
  · exact hi
  · exact absurd h hl

namespace Machine

variable {s : State} {w : Word} {rest : List Event}

theorem needsKey_iff_code (i : Instr) : needsKey i = true ↔ i.op.code.toNat = 0x11 ∨ i.op.code.toNat = 0x12 := by
  cases i with
  | _ => simp [needsKey, Instr.op, Op.code]

theorem State.issue_of_illegalOpcode (hd : decode w = .illegalOpcode) : s.issue w = s.reject .illegalOpcode := by
  simp only [State.issue, hd]

theorem State.issue_of_illegalArgument (hd : decode w = .illegalArgument) :
    s.issue w = s.reject .illegalArgument := by
  simp only [State.issue, hd]

theorem State.issue_of_keyMissing {i : Instr} (hd : decode w = .instr i) (hn : needsKey i = true)
    (hk : s.keyValid = false) : s.issue w = s.reject .keyNotValid := by
  simp [State.issue, hd, hn, hk]

/-- A CMD write whose issue is a rejection: the very next state (40_system.md R104). -/
theorem step_cmd_reject {e : ErrorKind} (he : s.events = wr .cmd w :: rest) (hb : s.busy = false)
    (hi : (s.withEvents rest).issue w = (s.withEvents rest).reject e) :
    step s = .next { s with
      events := rest, done := true, err := true, errCode := if s.err then s.errCode else e.code } := by
  rw [step_cmd_idle he hb, hi, State.reject_eq]
  rfl

end Machine

end Sys2Proof
end

section
/-! PROOFS. The statements of the family 40_system.md. -/

namespace Sys2Proof.Proofs

open Sys2Proof.Machine

/-- Settles O14: the drop is `raiseError` alone, and the command in flight reads neither field it writes. -/
theorem guardedWriteWhileBusyIsDropped : Obligations.GuardedWriteWhileBusyIsDropped := by
  intro s r v rest hb he
  refine ⟨fun hg => ⟨?_, fun t ht => ?_⟩, ?_, ?_⟩
  · rw [step_guarded_write_busy he hg hb, State.raiseError_eq]
    rfl
  · exact engineStep_with_error _ _ ht
  · rintro rfl
    exact step_ctrl_write he
  · rintro rfl
    exact step_status_write he

/-- Settles O18: the write-one-to-clear of `State.writeStatus`, its two bits read as one-bit fields. -/
theorem statusWriteClearsByOnes : Obligations.StatusWriteClearsByOnes := by
  intro s v rest he
  simp only [extractLsb'_one_eq_one_iff]
  exact step_status_write he

/-- Settles O19: only IE changes, and IRQ is computed from the new IE with the old DONE and ERR. -/
theorem ctrlWriteSetsInterruptEnable : Obligations.CtrlWriteSetsInterruptEnable := by
  intro s v rest he
  have hs := step_ctrl_write he
  simp only [extractLsb'_one_eq_one_iff, Bool.decide_eq_true]
  refine ⟨hs, fun t ht => ?_⟩
  cases hs.symm.trans ht
  simp [State.irq]

/-- Settles O22: the decoder answers by opcode and legality, and the two commands that need a key are told by their
opcodes. -/
theorem issueDecidesInOrder : Obligations.IssueDecidesInOrder := by
  intro s w rest hb he op n7 n5 zeroForm defined legal keyMissing
  refine ⟨fun hu => ?_, fun hd hl => ?_, fun hl hk => ?_, fun hl hk => ?_⟩
  · exact step_cmd_reject he hb (State.issue_of_illegalOpcode (decode_of_not_definedOpcode hu))
  · exact step_cmd_reject he hb (State.issue_of_illegalArgument (decode_of_not_legalCommand hd hl))
  · obtain ⟨i, hi, hcode⟩ := decode_of_legalCommand hl
    obtain ⟨hop, hkey⟩ := hk
    have hn : needsKey i = true := (needsKey_iff_code i).2 (hcode ▸ hop)
    exact step_cmd_reject he hb (State.issue_of_keyMissing hi hn hkey)
  · obtain ⟨i, hi, hcode⟩ := decode_of_legalCommand hl
    refine step_cmd_accept he hb hi fun hn => ?_
    have hop := (needsKey_iff_code i).1 hn
    rw [← hcode] at hop
    exact Bool.of_not_eq_false fun hkey => hk ⟨hop, hkey⟩

end Sys2Proof.Proofs
end

section
/-! SUPPORT. The SM4 engine by its words: the bit operators of `T`, the rotating state as a sequence indexed by the
round number, and what undoes the rounds (41_sm4.md R131 to R144). -/

namespace Sys2Proof.Machine

/-! ## The bit operators -/

theorem rotl_eq_rotateLeft (x : Word) (n : Nat) : rotl x n = x.rotateLeft n := rfl

theorem rotl_xor (x y : Word) (n : Nat) : rotl (x ^^^ y) n = rotl x n ^^^ rotl y n := by
  ext i hi
  simp only [rotl_eq_rotateLeft, BitVec.getElem_xor, BitVec.getElem_rotateLeft]
  split <;> rfl

/-- `L` is linear over XOR (41_sm4.md R143). -/
theorem linL_xor (x y : Word) : linL (x ^^^ y) = linL x ^^^ linL y := by
  simp only [linL, rotl_xor]
  ac_rfl

/-- The two parts of a concatenation do not overlap, so it is the XOR of the two in place. -/
theorem setWidth_append_eq_xor {v w : Nat} (n : Nat) (x : BitVec v) (y : BitVec w) :
    (x ++ y).setWidth n = (x.setWidth n <<< w) ^^^ y.setWidth n := by
  refine BitVec.eq_of_getLsbD_eq fun i hi => ?_
  by_cases hw : i < w
  · simp [BitVec.getLsbD_append, hi, hw]
  · simp [BitVec.getLsbD_append, hi, hw, BitVec.getLsbD_of_ge y i (by omega)]

theorem wordOfBytes_eq_xor (b0 b1 b2 b3 : Byte) :
    wordOfBytes b0 b1 b2 b3 =
      (b0.setWidth 32 <<< 24) ^^^ (b1.setWidth 32 <<< 16) ^^^ (b2.setWidth 32 <<< 8) ^^^ (b3.setWidth 32 <<< 0) := by
  rw [wordOfBytes, ← BitVec.setWidth_eq (b0 ++ b1 ++ b2 ++ b3)]
  simp only [setWidth_append_eq_xor, BitVec.shiftLeft_xor_distrib, ← BitVec.shiftLeft_add, BitVec.shiftLeft_zero]

/-- The fixed parameter of round `i` with its four bytes written out (41_sm4.md R132). -/
theorem ck_eq_ofNat : ∀ i < 32, ck i = BitVec.ofNat 32 (28 * i % 256 * 2 ^ 24 + (28 * i + 7) % 256 * 2 ^ 16 +
    (28 * i + 14) % 256 * 2 ^ 8 + (28 * i + 21) % 256) := by
  decide

/-! ## The rotating state, round by round -/

/-- The rotating state after a number of rounds: round `i` makes its new word by `f` from three of the four words and
`k i`. -/
def Quad.rounds (f : Word → Word) (k : Nat → Word) (q : Quad) : Nat → Quad
  | 0 => q
  | i + 1 =>
    let r := q.rounds f k i
    ⟨r.b, r.c, r.d, r.a ^^^ f (r.b ^^^ r.c ^^^ r.d ^^^ k i)⟩

/-- The sequence that the rotating state moves along (41_sm4.md R137, R138). -/
def Quad.word (f : Word → Word) (k : Nat → Word) (q : Quad) (i : Nat) : Word := (q.rounds f k i).a

section
variable (f : Word → Word) (k : Nat → Word) (q : Quad)

theorem Quad.rounds_eq_words (i : Nat) :
    q.rounds f k i = ⟨q.word f k i, q.word f k (i + 1), q.word f k (i + 2), q.word f k (i + 3)⟩ := rfl

theorem Quad.word_add_four (i : Nat) : q.word f k (i + 4) =
    q.word f k i ^^^ f (q.word f k (i + 1) ^^^ q.word f k (i + 2) ^^^ q.word f k (i + 3) ^^^ k i) := rfl

theorem foldl_sm4Round_eq_rounds (n : Nat) : ((List.range n).map k).foldl sm4Round q = q.rounds transT k n := by
  induction n with
  | zero => rfl
  | succ n ih =>
    rw [List.range_succ, List.map_append, List.foldl_append, ih]
    rfl

/-- The key schedule from its round `m` on. -/
theorem scheduleFrom_rounds (m n : Nat) : scheduleFrom (q.rounds transTp k m) ((List.range' m n).map k) =
    (List.range' m n).map fun i => q.word transTp k (i + 4) := by
  induction n generalizing m with
  | zero => rfl
  | succ n ih =>
    rw [List.range'_succ, List.map_cons, List.map_cons, ← ih (m + 1)]
    rfl

end

/-- Round key `i` is word `i + 4` of the key sequence (41_sm4.md R137). -/
theorem keyExp_eq_words (mk : Vector Word 4) :
    keyExp mk = Vector.ofFn fun i : Fin 32 => (keyStart mk).word transTp ck (i + 4) := by
  have h : scheduleFrom (keyStart mk) ((List.range 32).map ck) =
      (List.range 32).map fun i => (keyStart mk).word transTp ck (i + 4) := by
    rw [List.range_eq_range']
    exact scheduleFrom_rounds ck (keyStart mk) 0 32
  ext1 i hi
  simp [keyExp, h]

/-- The round keys of a vector as a function of the round number. -/
theorem exists_toList_eq_map_range {n : Nat} (ks : Vector Word n) :
    ∃ k : Nat → Word, (∀ i : Fin n, k i = ks[i]) ∧ ks.toList = (List.range n).map k := by
  refine ⟨fun i => ks.toList.getD i 0#32, fun i => by simp, List.ext_getElem (by simp) fun i hi _ => ?_⟩
  simp only [List.getElem_map, List.getElem_range, List.getD_eq_getElem _ _ hi]

/-- The encryption sequence of a block under round keys in the order of their use, and the reversal of its last four
words (41_sm4.md R138). -/
theorem sm4Crypt_follows_recurrence (ks : Vector Word 32) (x : Vector Word 4) : ∃ X : Nat → Word,
    X 0 = x[0] ∧ X 1 = x[1] ∧ X 2 = x[2] ∧ X 3 = x[3] ∧
    (∀ i : Fin 32, X (i + 4) = X i ^^^ transT (X (i + 1) ^^^ X (i + 2) ^^^ X (i + 3) ^^^ ks[i])) ∧
    sm4Crypt ks.toList x = #v[X 35, X 34, X 33, X 32] := by
  obtain ⟨k, hk, hks⟩ := exists_toList_eq_map_range ks
  refine ⟨(Quad.ofVector x).word transT k, rfl, rfl, rfl, rfl, fun i => ?_, ?_⟩
  · rw [Quad.word_add_four, hk i]
  · have hround := foldl_sm4Round_eq_rounds k (Quad.ofVector x) 32
    rw [Quad.rounds_eq_words] at hround
    simp only [sm4Crypt, hks, hround]

/-! ## What undoes the rounds -/

/-- The word reversal (41_sm4.md R138). -/
def Quad.reversed (q : Quad) : Quad := ⟨q.d, q.c, q.b, q.a⟩

theorem sm4Crypt_eq_reversed (ks : List Word) (x : Vector Word 4) :
    sm4Crypt ks x = (ks.foldl sm4Round (Quad.ofVector x)).reversed.toVector := rfl

@[simp] theorem Quad.ofVector_toVector (q : Quad) : Quad.ofVector q.toVector = q := rfl

theorem Quad.toVector_ofVector (x : Vector Word 4) : (Quad.ofVector x).toVector = x := by
  ext1 i hi
  match i, hi with
  | 0, _ | 1, _ | 2, _ | 3, _ => rfl

/-- A round on the reversed state, with the same key, takes the round back: it XORs the same word again
(41_sm4.md R144). -/
theorem sm4Round_reversed_sm4Round (q : Quad) (k : Word) :
    sm4Round (sm4Round q k).reversed k = q.reversed := by
  have hin : q.d ^^^ q.c ^^^ q.b ^^^ k = q.b ^^^ q.c ^^^ q.d ^^^ k := by ac_rfl
  have hback (t : Word) : q.a ^^^ t ^^^ t = q.a := by rw [BitVec.xor_assoc, BitVec.xor_self, BitVec.xor_zero]
  simp only [sm4Round, Quad.reversed, hin, hback]

theorem foldl_reverse_sm4Round_reversed (ks : List Word) (q : Quad) :
    ks.reverse.foldl sm4Round (ks.foldl sm4Round q).reversed = q.reversed := by
  induction ks generalizing q with
  | nil => rfl
  | cons k ks ih =>
    simp only [List.reverse_cons, List.foldl_append, List.foldl_cons, List.foldl_nil, ih, sm4Round_reversed_sm4Round]

/-- The transformation with the round keys in reverse order undoes the transformation (41_sm4.md R139, R144). -/
theorem sm4Crypt_reverse_sm4Crypt (ks : List Word) (x : Vector Word 4) :
    sm4Crypt ks.reverse (sm4Crypt ks x) = x := by
  rw [sm4Crypt_eq_reversed, sm4Crypt_eq_reversed, Quad.ofVector_toVector, foldl_reverse_sm4Round_reversed]
  exact Quad.toVector_ofVector x

theorem sm4Crypt_sm4Crypt_reverse (ks : List Word) (x : Vector Word 4) :
    sm4Crypt ks (sm4Crypt ks.reverse x) = x := by
  simpa using sm4Crypt_reverse_sm4Crypt ks.reverse x

end Sys2Proof.Machine
end

section
/-! PROOFS. The statements of the family 41_sm4.md. -/

namespace Sys2Proof.Proofs

open Sys2Proof.Machine

/-- Settles O37: the sequence of the key schedule's rotating state, with `ck` and `transTp` in their closed forms. -/
theorem keyExpansionFollowsItsRecurrence : Obligations.KeyExpansionFollowsItsRecurrence := by
  intro s
  refine ⟨(keyStart s.sm4Key).word transTp ck, rfl, rfl, rfl, rfl, fun i hi => ?_, ?_⟩
  · rw [Quad.word_add_four, ck_eq_ofNat i hi]
    rfl
  · rw [exec_sm4Keyexp, keyExp_eq_words]
    rfl

/-- Settles O38: the sequence under the round keys in order. -/
theorem encryptionFollowsItsRecurrence : Obligations.EncryptionFollowsItsRecurrence := by
  intro s
  obtain ⟨X, h0, h1, h2, h3, hrec, hout⟩ := sm4Crypt_follows_recurrence s.rk s.sm4Din
  refine ⟨X, h0, h1, h2, h3, hrec, ?_⟩
  rw [exec_sm4Enc, hout]
  rfl

/-- Settles O39: the same sequence under the reversed vector of round keys. -/
theorem decryptionUsesTheRoundKeysInReverse : Obligations.DecryptionUsesTheRoundKeysInReverse := by
  intro s
  obtain ⟨X, h0, h1, h2, h3, hrec, hout⟩ := sm4Crypt_follows_recurrence s.rk.reverse s.sm4Din
  have hrev : ∀ i : Fin 32, s.rk.reverse[i] = s.rk[i.rev] := fun i => by
    simp only [Fin.getElem_fin, Vector.getElem_reverse, Fin.val_rev]
    congr 1
    omega
  refine ⟨X, h0, h1, h2, h3, fun i => hrev i ▸ hrec i, ?_⟩
  rw [exec_sm4Dec, ← Vector.toList_reverse, hout]
  rfl

/-- Settles O40: each round is its own inverse on the reversed state, and both orders of the two commands run the
rounds of one after the reversed rounds of the other. -/
theorem decryptionUndoesEncryptionAndBack : Obligations.DecryptionUndoesEncryptionAndBack := by
  intro s block
  refine ⟨_, _, _, _, _, exec_sm4Keyexp s, exec_sm4Enc _, exec_sm4Dec _, ?_, exec_sm4Dec _, exec_sm4Enc _, ?_⟩
  · exact sm4Crypt_reverse_sm4Crypt _ block
  · exact sm4Crypt_sm4Crypt_reverse _ block

/-- Settles O41: `tau x` is the XOR of its four bytes in place, and `L` is linear over XOR. -/
theorem tableDrivenRoundEqualsDirect : Obligations.TableDrivenRoundEqualsDirect := by
  refine ⟨fun k b _ => rfl, fun x => ?_⟩
  rw [tau, wordOfBytes_eq_xor, linL_xor, linL_xor, linL_xor]
  rfl

end Sys2Proof.Proofs
end

section
/-! SUPPORT. Strings of words and strings of bytes: the bytes of words by their index, the words of bytes, and what the
message window holds (00_scope.md R9, 10_state.md R37). -/

namespace Sys2Proof.Machine

variable {s : State}

/-! ## Four bytes and a word -/

theorem wordOfBytes_byteOf (w : Word) : wordOfBytes (byteOf w 0) (byteOf w 1) (byteOf w 2) (byteOf w 3) = w := by
  have join (a m n : Nat) : w.extractLsb' (a + n) m ++ w.extractLsb' a n = w.extractLsb' a (m + n) :=
    BitVec.extractLsb'_append_extractLsb'_eq_extractLsb' rfl
  calc wordOfBytes (byteOf w 0) (byteOf w 1) (byteOf w 2) (byteOf w 3)
      = w.extractLsb' 0 32 := by
        simp only [wordOfBytes, byteOf]
        rw [join 16 8 8, join 8 16 8, join 0 24 8]
    _ = w := BitVec.extractLsb'_eq_self

theorem byteOf_wordOfBytes (b : Nat → Byte) {j : Nat} (hj : j < 4) :
    byteOf (wordOfBytes (b 0) (b 1) (b 2) (b 3)) j = b j := by
  have skip {n : Nat} (x : BitVec n) (y : Byte) (a : Nat) : (x ++ y).extractLsb' (a + 8) 8 = x.extractLsb' a 8 :=
    BitVec.extractLsb'_append_eq_of_le (by omega)
  match j, hj with
  | 0, _ => exact (skip _ _ 16).trans ((skip _ _ 8).trans BitVec.extractLsb'_append_eq_left)
  | 1, _ => exact (skip _ _ 8).trans ((skip _ _ 0).trans BitVec.extractLsb'_append_eq_right)
  | 2, _ => exact (skip _ _ 0).trans BitVec.extractLsb'_append_eq_right
  | 3, _ => exact BitVec.extractLsb'_append_eq_right

/-! ## Strings of them -/

theorem byteOf_be32 (bs : List Byte) (k : Nat) : byteOf (be32 bs (k / 4)) (k % 4) = bs.getD k 0#8 := by
  have hbyte : byteOf (be32 bs (k / 4)) (k % 4) = bs.getD (4 * (k / 4) + k % 4) 0#8 :=
    byteOf_wordOfBytes (fun j => bs.getD (4 * (k / 4) + j) 0#8) (Nat.mod_lt k (by decide))
  rw [hbyte, Nat.div_add_mod]

theorem getD_bytesOf (ws : List Word) (k : Nat) :
    (bytesOf ws).getD k 0#8 = byteOf (ws.getD (k / 4) 0#32) (k % 4) := by
  induction ws generalizing k with
  | nil => simp [bytesOf, byteOf]
  | cons w ws ih =>
    match k with
    | 0 | 1 | 2 | 3 => rfl
    | k + 4 =>
      rw [Nat.add_div_right k (by decide), Nat.add_mod_right]
      exact ih k

theorem be32_bytesOf (ws : List Word) (k : Nat) : be32 (bytesOf ws) k = ws.getD k 0#32 := by
  have hbyte (j : Nat) (hj : j < 4) : (bytesOf ws).getD (4 * k + j) 0#8 = byteOf (ws.getD k 0#32) j := by
    rw [getD_bytesOf, show (4 * k + j) / 4 = k by omega, Nat.mul_add_mod, Nat.mod_eq_of_lt hj]
  calc be32 (bytesOf ws) k
      = wordOfBytes (byteOf (ws.getD k 0#32) 0) (byteOf (ws.getD k 0#32) 1) (byteOf (ws.getD k 0#32) 2)
          (byteOf (ws.getD k 0#32) 3) := by
        rw [← hbyte 0 (by decide), ← hbyte 1 (by decide), ← hbyte 2 (by decide), ← hbyte 3 (by decide)]
        rfl
    _ = ws.getD k 0#32 := wordOfBytes_byteOf _

@[simp] theorem ofFn_be32_bytesOf {n : Nat} (v : Vector Word n) :
    (Vector.ofFn fun i : Fin n => be32 (bytesOf v.toList) i) = v := by
  ext1 i hi
  simp [be32_bytesOf]

@[simp] theorem length_bytesOf (ws : List Word) : (bytesOf ws).length = 4 * ws.length := by
  induction ws with
  | nil => rfl
  | cons w ws ih => exact congrArg (· + 4) ih

/-! ## The message window -/

@[simp] theorem State.length_msgBytes (n : Nat) : (s.msgBytes n).length = n := by simp [State.msgBytes]

theorem State.msgByte_eq_getD (k : Nat) : s.msgByte k = (bytesOf s.sm3Msg.toList).getD k 0#8 := by
  rw [getD_bytesOf]
  simp [State.msgByte]

/-- The whole window is the bytes of its words (10_state.md R37). -/
theorem State.msgBytes_eq_bytesOf : s.msgBytes 64 = bytesOf s.sm3Msg.toList := by
  refine List.ext_getElem (by simp) fun k hk hk' => ?_
  simp only [State.msgBytes, List.getElem_map, List.getElem_range, State.msgByte_eq_getD, List.getD_eq_getElem _ _ hk']

/-- The state with the message window loaded from a byte string (30_encoding.md R89). -/
def State.withWindow (window : List Byte) (s : State) : State :=
  { s with sm3Msg := Vector.ofFn fun i => be32 window i }

section
variable (window : List Byte)

@[simp] theorem State.withWindow_busy : (s.withWindow window).busy = s.busy := by simp only [State.withWindow]
@[simp] theorem State.withWindow_err : (s.withWindow window).err = s.err := by simp only [State.withWindow]
@[simp] theorem State.withWindow_errCode : (s.withWindow window).errCode = s.errCode := by simp only [State.withWindow]
@[simp] theorem State.withWindow_sm3Msg :
    (s.withWindow window).sm3Msg = Vector.ofFn fun i : Fin 16 => be32 window i := by simp only [State.withWindow]
@[simp] theorem State.hash_withWindow : (s.withWindow window).hash = s.hash := by
  simp only [State.hash, State.withWindow]

end

theorem State.msgBytes_withWindow {window : List Byte} {n : Nat} (hlen : window.length = 64) (hn : n ≤ 64) :
    (s.withWindow window).msgBytes n = window.take n := by
  refine List.ext_getElem (by simp; omega) fun k hk hk' => ?_
  rw [State.length_msgBytes] at hk
  have hword : k / 4 < 16 := by omega
  have hbyte := byteOf_be32 window k
  rw [List.getD_eq_getElem _ _ (by omega)] at hbyte
  simpa [State.msgBytes, State.msgByte, hword] using hbyte

/-! ## The bytes of a 64-bit value -/

theorem byteOf_extractLsb' (x : BitVec 64) (a : Nat) {j : Nat} (hj : j < 4) :
    byteOf (x.extractLsb' a 32) j = BitVec.ofNat 8 (x.toNat / 2 ^ (a + (24 - 8 * j))) := by
  have hext : byteOf (x.extractLsb' a 32) j = x.extractLsb' (a + (24 - 8 * j)) 8 := by
    ext i hi
    have hbit : 24 - 8 * j + i < 32 := by omega
    simp [byteOf, hbit, Nat.add_assoc]
  rw [hext, BitVec.extractLsb', Nat.shiftRight_eq_div_pow]

/-- Byte `k` of a 64-bit value, most significant first (42_sm3.md R179). -/
theorem bytesOf64_eq_map (x : BitVec 64) :
    bytesOf64 x = (List.range 8).map fun k => BitVec.ofNat 8 (x.toNat / 2 ^ (56 - 8 * k)) := by
  have hi (j : Nat) (hj : j < 4) := byteOf_extractLsb' x 32 hj
  have lo (j : Nat) (hj : j < 4) := byteOf_extractLsb' x 0 hj
  simp only [bytesOf64, bytesOf, bytesOfWord, List.flatMap_cons, List.flatMap_nil]
  rw [hi 0 (by decide), hi 1 (by decide), hi 2 (by decide), hi 3 (by decide), lo 0 (by decide), lo 1 (by decide),
    lo 2 (by decide), lo 3 (by decide)]
  rfl

/-! ## The two halves of CNT (10_state.md R36, R45) -/

theorem cntLo_cntOf (hi lo : Word) : cntLo (cntOf hi lo) = lo := BitVec.extractLsb'_append_eq_right

theorem cntOf_cntHi_cntLo (c : BitVec 64) : cntOf (cntHi c) (cntLo c) = c :=
  (BitVec.extractLsb'_append_extractLsb'_eq_extractLsb' rfl).trans BitVec.extractLsb'_eq_self

end Sys2Proof.Machine
end

section
/-! SUPPORT. The compression function by its indexed sequences: the expanded words as a function of their number, and
the working registers round by round (42_sm3.md R175 to R177). -/

namespace Sys2Proof.Machine

/-! ## The expanded words -/

theorem moreW_succ (n : Nat) (ws : List Word) : moreW (n + 1) ws = nextW (moreW n ws) :: moreW n ws := by
  induction n generalizing ws with
  | zero => rfl
  | succ n ih => exact ih (nextW ws :: ws)

@[simp] theorem length_moreW (n : Nat) (ws : List Word) : (moreW n ws).length = n + ws.length := by
  induction n with
  | zero => rw [moreW, Nat.zero_add]
  | succ n ih => rw [moreW_succ, List.length_cons, ih, Nat.add_right_comm]

/-- Each further word moves the words before it one place on. -/
theorem getD_moreW_add (n k i : Nat) (ws : List Word) :
    (moreW (n + k) ws).getD (i + k) 0#32 = (moreW n ws).getD i 0#32 := by
  induction k with
  | zero => rfl
  | succ k ih => rw [← Nat.add_assoc, moreW_succ, ← Nat.add_assoc, List.getD_cons_succ, ih]

section
variable (block : List Byte)

/-- `W[j]` of a block, for every `j`: the sixteenth latest word after `j` expanded ones (42_sm3.md R175). -/
def expandedWord (j : Nat) : Word := (moreW j ((List.range 16).map (be32 block)).reverse).getD 15 0#32

theorem getD_moreW_eq_expandedWord {n i j : Nat} (h : i + j = n + 15) :
    (moreW n ((List.range 16).map (be32 block)).reverse).getD i 0#32 = expandedWord block j := by
  obtain hle | hle := Nat.le_total j n
  · obtain ⟨k, rfl⟩ := Nat.exists_eq_add_of_le hle
    obtain rfl : i = 15 + k := by omega
    exact getD_moreW_add j k 15 _
  · obtain ⟨k, rfl⟩ := Nat.exists_eq_add_of_le hle
    have hi : i + k = 15 := by omega
    rw [expandedWord, ← hi]
    exact (getD_moreW_add n k i _).symm

theorem expandedWord_of_lt {j : Nat} (h : j < 16) : expandedWord block j = be32 block j := by
  have hplace : 15 - (15 - j) = j := by omega
  rw [← getD_moreW_eq_expandedWord block (n := 0) (i := 15 - j) (by omega)]
  simp [moreW, hplace, show 15 - j < 16 by omega]

theorem expandedWord_add_sixteen (j : Nat) : expandedWord block (j + 16) =
    p1 (expandedWord block j ^^^ expandedWord block (j + 7) ^^^ rotl (expandedWord block (j + 13)) 15) ^^^
      rotl (expandedWord block (j + 3)) 7 ^^^ expandedWord block (j + 10) := by
  have back (i k : Nat) (h : i + k = 15) :
      (moreW j ((List.range 16).map (be32 block)).reverse).getD i 0#32 = expandedWord block (j + k) :=
    getD_moreW_eq_expandedWord block (by omega)
  rw [← getD_moreW_eq_expandedWord block (n := j + 1) (i := 0) (by omega), moreW_succ, List.getD_cons_zero, nextW,
    back 15 0 rfl, back 8 7 rfl, back 2 13 rfl, back 12 3 rfl, back 5 10 rfl, Nat.add_zero]

theorem getD_expandW {j : Nat} (h : j < 68) : (expandW block).getD j 0#32 = expandedWord block j := by
  rw [← getD_moreW_eq_expandedWord block (n := 52) (i := 67 - j) (by omega), expandW, List.getD_eq_getElem?_getD,
    List.getElem?_reverse (by simpa using h), length_moreW]
  simp

/-! ## The rounds -/

/-- The working registers before round `j` of the compression of a block (42_sm3.md R176, R177). -/
def roundState (v : Vector Word 8) (j : Nat) : Work :=
  (List.range j).foldl (sm3RoundAt (expandW block)) ⟨v[0], v[1], v[2], v[3], v[4], v[5], v[6], v[7]⟩

theorem roundState_succ (v : Vector Word 8) {j : Nat} (h : j < 64) : roundState block v (j + 1) =
    sm3Round j (expandedWord block j) (expandedWord block j ^^^ expandedWord block (j + 4)) (roundState block v j) := by
  rw [← getD_expandW block (show j < 68 by omega), ← getD_expandW block (show j + 4 < 68 by omega), roundState,
    List.range_succ, List.foldl_append]
  rfl

end

end Sys2Proof.Machine
end

section
/-! SUPPORT. The stream path as a hash in progress: which bytes a stream state has absorbed, what absorbing, padding and
the two starts, SM3_INIT and a loaded digest, do to that, and the digest at the end (42_sm3.md R178 to R186). -/

namespace Sys2Proof.Machine

/-! ## Padding -/

theorem length_pad (c : BitVec 64) : (pad c).length = 9 + (119 - c.toNat % 64) % 64 := by
  simp only [pad, bytesOf64, List.length_cons, List.length_append, List.length_replicate, length_bytesOf,
    List.length_nil]
  omega

theorem length_padded_mod (m : List Byte) : (padded m).length % 64 = 0 := by
  rw [padded, List.length_append, length_pad, BitVec.toNat_ofNat]
  omega

/-! ## Blocks -/

/-- Bytes after the first `n` blocks do not matter (42_sm3.md R185). -/
theorem cfBlocks_append (n : Nat) (v : Vector Word 8) {m : List Byte} (h : 64 * n ≤ m.length) (x : List Byte) :
    cfBlocks n v (m ++ x) = cfBlocks n v m := by
  induction n generalizing v m with
  | zero => rfl
  | succ n ih =>
    rw [cfBlocks, cfBlocks, List.take_append_of_le_length (by omega), List.drop_append_of_le_length (by omega),
      ih _ (by rw [List.length_drop]; omega)]

/-- The last of `n + 1` blocks (42_sm3.md R185). -/
theorem cfBlocks_succ (n : Nat) (v : Vector Word 8) (m : List Byte) :
    cfBlocks (n + 1) v m = cf (cfBlocks n v m) ((m.drop (64 * n)).take 64) := by
  induction n generalizing v m with
  | zero => rfl
  | succ n ih => rw [cfBlocks, ih, cfBlocks, List.drop_drop, Nat.mul_succ, Nat.add_comm 64]

/-! ## What a stream state has absorbed -/

theorem take_toList_setIfInBounds (buf : Vector Byte 64) {k : Nat} (hk : k < 64) (b : Byte) :
    (buf.setIfInBounds k b).toList.take (k + 1) = buf.toList.take k ++ [b] := by
  rw [Vector.toList_setIfInBounds, List.take_add_one, List.take_set_of_le (Nat.le_refl k),
    List.getElem?_set_self (by simpa using hk), Option.toList_some]

namespace HashState

/-- The stream state after the bytes `m` from the IV: the whole blocks of `m` compressed, the rest of it in BUF up to
the fill level, CNT its length (42_sm3.md R178). Nothing is said of BUF from the fill level on: no hash depends on it
(R186). -/
structure Absorbed (h : HashState) (m : List Byte) : Prop where
  v_eq : h.v = cfBlocks (m.length / 64) sm3IV m
  cnt_eq : h.cnt = BitVec.ofNat 64 m.length
  take_buf : h.buf.toList.take (m.length % 64) = m.drop (64 * (m.length / 64))

variable {h : HashState} {m : List Byte}

theorem absorbAll_append (bs bs' : List Byte) : h.absorbAll (bs ++ bs') = (h.absorbAll bs).absorbAll bs' :=
  List.foldl_append

theorem Absorbed.fill_eq (hm : h.Absorbed m) : h.fill = m.length % 64 := by
  rw [HashState.fill, hm.cnt_eq, BitVec.toNat_ofNat]
  omega

/-- One byte more: it goes to BUF at the fill level, and if it fills the block, the block is the next to be compressed
(42_sm3.md R178). -/
theorem Absorbed.absorb (hm : h.Absorbed m) (b : Byte) : (h.absorb b).Absorbed (m ++ [b]) := by
  have hlen : (m ++ [b]).length = m.length + 1 := List.length_append
  have hcnt : h.cnt + 1#64 = BitVec.ofNat 64 (m ++ [b]).length := by rw [hm.cnt_eq, hlen, BitVec.ofNat_add]
  have hv : cfBlocks (m.length / 64) sm3IV (m ++ [b]) = h.v := by rw [cfBlocks_append _ _ (by omega), hm.v_eq]
  have hbuf : (h.buf.setIfInBounds (m.length % 64) b).toList.take (m.length % 64 + 1) =
      (m ++ [b]).drop (64 * (m.length / 64)) := by
    rw [take_toList_setIfInBounds _ (by omega), hm.take_buf, List.drop_append_of_le_length (by omega)]
  by_cases hfull : m.length % 64 = 63
  · have hdiv : (m ++ [b]).length / 64 = m.length / 64 + 1 := by omega
    have hmod : (m ++ [b]).length % 64 = 0 := by omega
    rw [hfull, List.take_of_length_le (by simp)] at hbuf
    simp only [HashState.absorb, hm.fill_eq, hfull, if_true]
    refine ⟨?_, hcnt, ?_⟩
    · rw [hdiv, cfBlocks_succ, hv, hbuf, List.take_of_length_le (by rw [List.length_drop]; omega)]
    · rw [hmod, List.take_zero, List.drop_eq_nil_of_le (by omega)]
  · have hdiv : (m ++ [b]).length / 64 = m.length / 64 := by omega
    have hmod : (m ++ [b]).length % 64 = m.length % 64 + 1 := by omega
    rw [HashState.absorb, hm.fill_eq, if_neg hfull]
    exact ⟨by rw [hdiv, hv], hcnt, by rw [hmod, hdiv, hbuf]⟩

theorem Absorbed.absorbAll (hm : h.Absorbed m) (bs : List Byte) : (h.absorbAll bs).Absorbed (m ++ bs) := by
  induction bs generalizing h m with
  | nil => rwa [List.append_nil]
  | cons b bs ih =>
    rw [List.append_cons]
    exact ih (hm.absorb b)

theorem absorbed_init (p : Pfx) : (HashState.init p).Absorbed (pfxBytes p) :=
  Absorbed.absorbAll (m := []) ⟨rfl, rfl, rfl⟩ (pfxBytes p)

/-- A loaded digest is as good as having absorbed the padded message, whatever BUF holds (42_sm3.md R186). -/
theorem absorbed_digest (m : List Byte) (buf : Vector Byte 64) :
    HashState.Absorbed ⟨sm3 m, BitVec.ofNat 64 (padded m).length, buf⟩ (padded m) where
  v_eq := rfl
  cnt_eq := rfl
  take_buf := by
    have hmod := length_padded_mod m
    rw [hmod, List.take_zero, List.drop_eq_nil_of_le (by omega)]

/-- Absorbing the padding of the count leaves the digest (42_sm3.md R183, R185). -/
theorem Absorbed.v_final (hm : h.Absorbed m) : h.final.v = sm3 m := by
  have hpadded : h.final.Absorbed (padded m) := by
    rw [HashState.final, hm.cnt_eq]
    exact hm.absorbAll _
  exact hpadded.v_eq

end HashState

end Sys2Proof.Machine
end

section
/-! SUPPORT. Runs of a host program, event list by event list: a write, a `wrblk`, a command with its completion
(30_encoding.md R88, R89; 40_system.md R101, R103, R106). -/

namespace Sys2Proof.Machine

variable {s t u : State} {es fs rest : List Event}

/-- A run of `a + b` steps is one of `b` after one of `a` (Host.Core.run). -/
theorem run_add {a : Nat} (b : Nat) (h : Host.Core.run core a s = .next t) :
    Host.Core.run core (a + b) s = Host.Core.run core b t := by
  induction a generalizing s with
  | zero =>
    cases h
    rw [Nat.zero_add]
  | succ a ih =>
    rw [Nat.add_right_comm]
    simp only [Host.Core.run] at h ⊢
    cases hs : core.step s with
    | next u =>
      rw [hs] at h
      exact ih h
    | fault r => simp [hs] at h
    | refused r => simp [hs] at h

/-- The events `es` take `s` to `t`, whatever events come after them. What `s` and `t` themselves list does not
matter. -/
def RunsThrough (s : State) (es : List Event) (t : State) : Prop :=
  ∀ rest, Host.Core.run core es.length (s.withEvents (es ++ rest)) = .next (t.withEvents rest)

theorem RunsThrough.run (h : RunsThrough s es t) (he : s.events = es ++ rest) :
    Host.Core.run core es.length s = .next (t.withEvents rest) := by
  have hs : s.withEvents (es ++ rest) = s := by
    rw [← he]
    rfl
  exact hs ▸ h rest

theorem RunsThrough.nil (s : State) : RunsThrough s [] s := fun _ => rfl

theorem RunsThrough.append (h : RunsThrough s es t) (h' : RunsThrough t fs u) : RunsThrough s (es ++ fs) u := by
  intro rest
  rw [List.length_append, List.append_assoc, run_add _ (h (fs ++ rest))]
  exact h' rest

/-! ## A command with its completion -/

theorem State.msgBytes_with_events (es : List Event) (n : Nat) :
    ({ s with events := es } : State).msgBytes n = s.msgBytes n := rfl

/-- No completion reads or changes the events still to come. -/
theorem exec_withEvents {i : Instr} (es : List Event) (h : exec i s = .next t) :
    exec i (s.withEvents es) = .next (t.withEvents es) := by
  cases i with
  | _ =>
    cases h
    simp [State.withEvents, State.finish, State.zeroized, State.withHash, State.hash, State.msgBytes_with_events]

theorem runsThrough_cmd {i : Instr} (hb : s.busy = false) (hd : decode (encode i) = .instr i)
    (hk : needsKey i = true → s.keyValid = true) (h : exec i s = .next t) :
    RunsThrough s [cmd i, .complete] t := by
  intro rest
  have haccept := step_cmd_accept (s := s.withEvents (cmd i :: .complete :: rest)) rfl hb hd hk
  have hcomplete : step ((s.withEvents (.complete :: rest)).accept (encode i)) = .next (t.withEvents rest) := by
    have hword : decode (Inflight.word ⟨opField (encode i), argField (encode i)⟩) = .instr i := by
      rw [Inflight.word_of_decode hd, hd]
    rw [step_complete rfl]
    exact (engineStep_instr rfl hword).trans ((exec_accept i (s.withEvents rest) _).trans (exec_withEvents rest h))
  exact (run_succ 1 haccept).trans (run_succ 0 hcomplete)

/-! ## Writes -/

theorem runsThrough_wr {r : Reg} (v : Word) (hb : s.busy = false) (hr : r ≠ .cmd) :
    RunsThrough s [wr r v] (s.store r v) := by
  intro rest
  refine run_succ 0 ((step_wr rfl).trans ?_)
  cases r with
  | cmd => exact absurd rfl hr
  | _ => simp [State.busWrite, hb]; rfl

theorem getElem_foldl_set {n : Nat} (w : Fin n → Word) (is : List (Fin n)) (v : Vector Word n) (j : Fin n) :
    (is.foldl (fun v i => v.set i (w i)) v)[j] = if j ∈ is then w j else v[j] := by
  induction is generalizing v with
  | nil => rfl
  | cons i is ih =>
    rw [List.foldl_cons, ih]
    by_cases hi : i = j
    · simp [hi]
    · simp [hi, Ne.symm hi, Fin.val_inj]

theorem foldl_set_finRange {n : Nat} (w : Fin n → Word) (v : Vector Word n) :
    (List.finRange n).foldl (fun v i => v.set i (w i)) v = Vector.ofFn w := by
  ext1 j hj
  simpa using getElem_foldl_set w (List.finRange n) v ⟨j, hj⟩

theorem wrblk_map_finRange {n : Nat} (g : Fin n → Reg) (bs : List Byte) :
    wrblk ((List.finRange n).map g) bs = (List.finRange n).map fun i => wr (g i) (be32 bs i) := by
  simp [wrblk, List.mapIdx_eq_ofFn, List.ofFn_eq_map]

/-- `wrblk` to a group of `n` registers, where `put v` is the state whose group holds `v` (30_encoding.md R89). -/
theorem runsThrough_wrblk {n : Nat} {g : Fin n → Reg} {put : Vector Word n → State} (hg : ∀ i, g i ≠ .cmd)
    (hput : ∀ v i w, (put v).store (g i) w = put (v.set i w)) (hbusy : ∀ v, (put v).busy = false)
    (v : Vector Word n) (bs : List Byte) :
    RunsThrough (put v) (wrblk ((List.finRange n).map g) bs) (put (Vector.ofFn fun i => be32 bs i)) := by
  have hwrites (is : List (Fin n)) (v : Vector Word n) : RunsThrough (put v) (is.map fun i => wr (g i) (be32 bs i))
      (put (is.foldl (fun v (i : Fin n) => v.set i (be32 bs i)) v)) := by
    induction is generalizing v with
    | nil => exact .nil _
    | cons i is ih => exact (hput v i _ ▸ runsThrough_wr _ (hbusy v) (hg i)).append (ih _)
  rw [wrblk_map_finRange, ← foldl_set_finRange _ v]
  exact hwrites _ v

end Sys2Proof.Machine
end

section
/-! SUPPORT. The parts of the SM3 host programs: loading the window and updating, loading a digest with its count, and
the end of a hash (42_sm3.md R185, R186). -/

namespace Sys2Proof.Machine

variable {s : State} {chunks : List (List Byte × Nat)}

theorem decode_encode_sm3Update : ∀ n : BitVec 7, 1 ≤ n.toNat → n.toNat ≤ 64 →
    decode (encode (.sm3Update n)) = .instr (.sm3Update n) := by
  decide

theorem State.hash_finish_withHash (h : HashState) : (s.withHash h).finish.hash = h := rfl

theorem runsThrough_wrblk_msg (window : List Byte) (hb : s.busy = false) :
    RunsThrough s (wrblk msgRegs window) (s.withWindow window) :=
  runsThrough_wrblk (put := fun m => { s with sm3Msg := m }) (by simp) (fun _ _ _ => rfl) (fun _ => hb) s.sm3Msg window

theorem runsThrough_wrblk_v (digest : Vector Word 8) (hb : s.busy = false) :
    RunsThrough s (wrblk vRegs (bytesOf digest.toList)) { s with sm3V := digest } := by
  have h := runsThrough_wrblk (g := .sm3V) (put := fun v => { s with sm3V := v }) (by simp) (fun _ _ _ => rfl)
    (fun _ => hb) s.sm3V (bytesOf digest.toList)
  rwa [ofFn_be32_bytesOf] at h

/-- The load of a digest and a count; BUF stays (42_sm3.md R186). -/
theorem runsThrough_load (digest : Vector Word 8) (count : BitVec 64) (hb : s.busy = false) :
    RunsThrough s (wrblk vRegs (bytesOf digest.toList) ++ [wr .sm3CntLo (cntLo count), wr .sm3CntHi (cntHi count)])
      (s.withHash ⟨digest, count, s.buf⟩) := by
  have hv := runsThrough_wrblk_v digest hb
  have hlo := runsThrough_wr (r := .sm3CntLo) (s := { s with sm3V := digest }) (cntLo count) hb (by decide)
  have hhi := runsThrough_wr (r := .sm3CntHi)
    (s := { s with sm3V := digest, cnt := cntOf (cntHi s.cnt) (cntLo count) }) (cntHi count) hb (by decide)
  simp only [State.store, cntLo_cntOf, cntOf_cntHi_cntLo] at hlo hhi
  exact hv.append (hlo.append hhi)

/-- `t` is idle, with the error state of `s` and the stream state `h`. -/
structure State.HashesTo (s : State) (h : HashState) (t : State) : Prop where
  busy : t.busy = false
  err : t.err = s.err
  errCode : t.errCode = s.errCode
  hash : t.hash = h

theorem runsThrough_updateWindow {window : List Byte} {n : Nat} (hb : s.busy = false) (hlen : window.length = 64)
    (h1 : 1 ≤ n) (h64 : n ≤ 64) :
    ∃ t, RunsThrough s (updateWindow window n) t ∧ s.HashesTo (s.hash.absorbAll (window.take n)) t := by
  have hn : (BitVec.ofNat 7 n).toNat = n := Nat.mod_eq_of_lt (by omega)
  have hd := decode_encode_sm3Update (BitVec.ofNat 7 n) (by omega) (by omega)
  have hbw : (s.withWindow window).busy = false := (State.withWindow_busy window).trans hb
  have hupdate := runsThrough_cmd hbw hd nofun (exec_sm3Update _ _)
  refine ⟨_, (runsThrough_wrblk_msg window hb).append hupdate, rfl, by simp, by simp, ?_⟩
  rw [hn, State.msgBytes_withWindow hlen h64, State.hash_withWindow, State.hash_finish_withHash]

theorem runsThrough_updates (hb : s.busy = false) (hc : legalChunks chunks) :
    ∃ t, RunsThrough s (updates chunks) t ∧ s.HashesTo (s.hash.absorbAll (suppliedBytes chunks)) t := by
  induction chunks generalizing s with
  | nil => exact ⟨s, .nil s, hb, rfl, rfl, rfl⟩
  | cons c chunks ih =>
    obtain ⟨⟨hlen, h1, h64⟩, hc⟩ := List.forall_mem_cons.1 hc
    obtain ⟨t, hrun, ht⟩ := runsThrough_updateWindow hb hlen h1 h64
    obtain ⟨u, hrun', hu⟩ := ih ht.busy hc
    refine ⟨u, hrun.append hrun', hu.busy, hu.err.trans ht.err, hu.errCode.trans ht.errCode, ?_⟩
    rw [hu.hash, ht.hash, ← HashState.absorbAll_append]
    rfl

/-- The updates and SM3_FINAL after the bytes `m` leave the digest of `m` and the bytes supplied (42_sm3.md R185). -/
theorem runsThrough_updates_final {m : List Byte} (hb : s.busy = false) (hc : legalChunks chunks)
    (hm : s.hash.Absorbed m) :
    ∃ t, RunsThrough s (updates chunks ++ [cmd .sm3Final, .complete]) t ∧ t.sm3V = sm3 (m ++ suppliedBytes chunks) ∧
      t.busy = false ∧ t.done = true ∧ t.err = s.err ∧ t.errCode = s.errCode := by
  obtain ⟨t, hrun, ht⟩ := runsThrough_updates hb hc
  have habsorbed : t.hash.Absorbed (m ++ suppliedBytes chunks) := ht.hash ▸ hm.absorbAll _
  have hfinal := runsThrough_cmd (i := .sm3Final) ht.busy (by decide) nofun (exec_sm3Final t)
  exact ⟨_, hrun.append hfinal, habsorbed.v_final, rfl, rfl, ht.err, ht.errCode⟩

end Sys2Proof.Machine
end

section
/-! PROOFS. The statements of the family 42_sm3.md. -/

namespace Sys2Proof.Proofs

open Sys2Proof.Machine

/-- Settles O44: the length by `length_pad`, and the counting of zero bytes down to a block boundary is arithmetic. -/
theorem paddingFillsTheBlock : Obligations.PaddingFillsTheBlock := by
  intro c z
  have hz : (119 - c.toNat % 64) % 64 = z := by omega
  have hlen : (pad c).length = 9 + z := hz ▸ length_pad c
  refine ⟨by omega, ?_, hlen, by omega, by omega, by omega, by omega, by omega⟩
  rw [pad, hz, bytesOf64_eq_map, BitVec.toNat_mul]
  rfl

/-- Settles O46: the sequences are `expandedWord` and `roundState` of the window. -/
theorem compressionFollowsItsRecurrences : Obligations.CompressionFollowsItsRecurrences := by
  intro s
  refine ⟨expandedWord (s.msgBytes 64), roundState (s.msgBytes 64) s.sm3V, fun j => ?_, fun j hj _ => ?_, rfl,
    fun j hj => roundState_succ _ _ hj, rfl⟩
  · rw [expandedWord_of_lt _ j.isLt, State.msgBytes_eq_bytesOf, be32_bytesOf]
    simp
  · obtain ⟨k, rfl⟩ := Nat.exists_eq_add_of_le' hj
    exact expandedWord_add_sixteen _ k

/-- Settles O48: SM3_INIT leaves a stream state that has absorbed the prefix, which the updates and SM3_FINAL take to
the digest. -/
theorem hashProgramComputesSm3 : Obligations.HashProgramComputesSm3 := by
  intro s p chunks rest hb hc he
  have hinit : RunsThrough s [cmd (.sm3Init p), .complete] (s.withHash (HashState.init p)).finish :=
    runsThrough_cmd hb (by cases p <;> decide) nofun (exec_sm3Init p s)
  obtain ⟨t, hrun, hv, hbusy, hdone, herr, hcode⟩ :=
    runsThrough_updates_final (s := (s.withHash (HashState.init p)).finish) rfl hc (HashState.absorbed_init p)
  have hprogram : RunsThrough s (hashProgram p chunks) t := by
    rw [hashProgram, List.append_assoc]
    exact hinit.append hrun
  exact ⟨_, hprogram.run he, hv, hbusy, hdone, herr, hcode, rfl⟩

/-- Settles O49: the load leaves a stream state that has absorbed the padded message, and the updates and SM3_FINAL go on
from there as in O48. -/
theorem lengthExtensionResumesFromADigest : Obligations.LengthExtensionResumesFromADigest := by
  intro s m chunks rest hb hc he
  have hload := runsThrough_load (sm3 m) (BitVec.ofNat 64 (padded m).length) hb
  obtain ⟨t, hrun, hv, hbusy, -⟩ := runsThrough_updates_final (s := s.withHash ⟨sm3 m, _, s.buf⟩) hb hc
    (HashState.absorbed_digest m s.buf)
  have hprogram : RunsThrough s (extendProgram (sm3 m).toList (BitVec.ofNat 64 (padded m).length) chunks) t := by
    rw [extendProgram, List.append_assoc]
    exact hload.append hrun
  exact ⟨_, hprogram.run he, hv, hbusy, rfl⟩

end Sys2Proof.Proofs
end

section
/-! SUPPORT. The GHASH engine: the product by its indexed sequences, a block as its four words, and the host program
block by block (43_ghash.md R211 to R214, 40_system.md R101). -/

namespace Sys2Proof.Machine

/-! ## The product -/

/-- The multiplicand after a number of steps, `V[i]` (43_ghash.md R211). -/
def gfV (y : Block128) : Nat → Block128
  | 0 => y
  | i + 1 => gfMulX (gfV y i)

/-- The partial product after a number of steps, `Z[i]`: step `i` looks at bit `127 - i` (43_ghash.md R211). -/
def gfZ (x y : Block128) : Nat → Block128
  | 0 => 0#128
  | i + 1 => if x.getLsbD (127 - i) then gfZ x y i ^^^ gfV y i else gfZ x y i

/-- The loop goes on from step `i` to the last one. -/
theorem gfLoop_gfZ_gfV (x y : Block128) {n i : Nat} (h : i + n = 128) :
    gfLoop x n (gfZ x y i) (gfV y i) = gfZ x y 128 := by
  induction n generalizing i with
  | zero =>
    obtain rfl : i = 128 := h
    rfl
  | succ n ih =>
    obtain rfl : n = 127 - i := by omega
    exact ih (i := i + 1) (by omega)

theorem gfMul_eq_gfZ (x y : Block128) : gfMul x y = gfZ x y 128 := gfLoop_gfZ_gfV x y (n := 128) (i := 0) rfl

/-! ## A block and its words -/

/-- The block of four words, word 0 the most significant (10_state.md R45). -/
def blockOf (ws : Vector Word 4) : Block128 := ws[0] ++ ws[1] ++ ws[2] ++ ws[3]

/-- The four words of a block (10_state.md R45). -/
def blockWords (y : Block128) : Vector Word 4 := Vector.ofFn (quadWord y)

@[simp] theorem blockOf_blockWords (y : Block128) : blockOf (blockWords y) = y := by
  have join (a m n : Nat) : y.extractLsb' (a + n) m ++ y.extractLsb' a n = y.extractLsb' a (m + n) :=
    BitVec.extractLsb'_append_extractLsb'_eq_extractLsb' rfl
  calc blockOf (blockWords y)
      = y.extractLsb' 96 32 ++ y.extractLsb' 64 32 ++ y.extractLsb' 32 32 ++ y.extractLsb' 0 32 := rfl
    _ = y.extractLsb' 0 128 := by rw [join 64 32 32, join 32 64 32, join 0 96 32]
    _ = y := BitVec.extractLsb'_eq_self

@[simp] theorem blockWords_blockOf (ws : Vector Word 4) : blockWords (blockOf ws) = ws := by
  have skip {n : Nat} (x : BitVec n) (w : Word) (a : Nat) : (x ++ w).extractLsb' (a + 32) 32 = x.extractLsb' a 32 :=
    BitVec.extractLsb'_append_eq_of_le (by omega)
  ext1 i hi
  rw [blockWords, Vector.getElem_ofFn]
  match i, hi with
  | 0, _ => exact (skip _ _ 64).trans ((skip _ _ 32).trans BitVec.extractLsb'_append_eq_left)
  | 1, _ => exact (skip _ _ 32).trans ((skip _ _ 0).trans BitVec.extractLsb'_append_eq_right)
  | 2, _ => exact (skip _ _ 0).trans BitVec.extractLsb'_append_eq_right
  | 3, _ => exact BitVec.extractLsb'_append_eq_right

theorem getLsbD_wordMask (k : Nat) : (0xFFFFFFFF#128).getLsbD k = decide (k < 32) := by
  have hmask : 0xFFFFFFFF#128 = (BitVec.allOnes 32).setWidth 128 := by decide
  rw [hmask, BitVec.getLsbD_setWidth, BitVec.getLsbD_allOnes, ← Bool.decide_and]
  exact decide_eq_decide.2 (by omega)

theorem getLsbD_setQuadWord (y : Block128) (i : Fin 4) (w : Word) {k : Nat} (hk : k < 128) :
    (setQuadWord y i w).getLsbD k =
      if 96 - 32 * i ≤ k ∧ k < 128 - 32 * i then w.getLsbD (k - (96 - 32 * i)) else y.getLsbD k := by
  have hsub : k - (96 - 32 * i) < 128 := by omega
  simp only [setQuadWord, BitVec.getLsbD_or, BitVec.getLsbD_and, BitVec.getLsbD_not, BitVec.getLsbD_shiftLeft,
    BitVec.getLsbD_setWidth, getLsbD_wordMask, hk, hsub, decide_true, Bool.true_and]
  by_cases hlow : k < 96 - 32 * i
  · simp [hlow, show ¬96 - 32 * i ≤ k by omega]
  · by_cases hhigh : k < 128 - 32 * i
    · simp [hlow, hhigh, show k - (96 - 32 * i) < 32 by omega, show 96 - 32 * i ≤ k by omega]
    · simp [hlow, hhigh, show ¬k - (96 - 32 * i) < 32 by omega, BitVec.getLsbD_of_ge w (k - (96 - 32 * i)) (by omega)]

/-- The store of a word replaces that word and no other (40_system.md R101). -/
theorem quadWord_setQuadWord (y : Block128) (i j : Fin 4) (w : Word) :
    quadWord (setQuadWord y i w) j = if i = j then w else quadWord y j := by
  refine BitVec.eq_of_getLsbD_eq fun k hk => ?_
  rw [quadWord, BitVec.getLsbD_extractLsb', getLsbD_setQuadWord y i w (by omega)]
  by_cases h : i = j
  · subst h
    rw [if_pos (by omega), if_pos rfl, Nat.add_sub_cancel_left, decide_eq_true hk, Bool.true_and]
  · have hne : (i : Nat) ≠ j := mt Fin.ext h
    rw [if_neg (by omega), if_neg h, quadWord, BitVec.getLsbD_extractLsb']

theorem blockWords_setQuadWord (y : Block128) (i : Fin 4) (w : Word) :
    blockWords (setQuadWord y i w) = (blockWords y).set i w := by
  ext1 j hj
  simp [blockWords, quadWord_setQuadWord, Vector.getElem_set, Fin.ext_iff]

theorem setQuadWord_blockOf (ws : Vector Word 4) (i : Fin 4) (w : Word) :
    setQuadWord (blockOf ws) i w = blockOf (ws.set i w) := by
  rw [← blockOf_blockWords (setQuadWord _ i w), blockWords_setQuadWord, blockWords_blockOf]

theorem keepBytes_sixteen (y : Block128) : keepBytes 16 y = y := by simp [keepBytes]

/-! ## The host program -/

variable {s : State}

theorem ghashBlockProgram_eq_wrblk (b : Block128) :
    ghashBlockProgram b = wrblk ghInRegs (bytesOf (blockWords b).toList) ++ [ghashBlock, .complete] := by
  rw [ghInRegs, wrblk_map_finRange]
  simp [ghashBlockProgram, be32_bytesOf, blockWords]

theorem runsThrough_wrblk_ghIn (b : Block128) (hb : s.busy = false) :
    RunsThrough s (wrblk ghInRegs (bytesOf (blockWords b).toList)) { s with ghIn := b } := by
  have h := runsThrough_wrblk (g := .ghIn) (put := fun ws => { s with ghIn := blockOf ws }) (by simp)
    (fun ws i w => congrArg (fun y => { s with ghIn := y }) (setQuadWord_blockOf ws i w)) (fun _ => hb)
    (blockWords s.ghIn) (bytesOf (blockWords b).toList)
  rwa [ofFn_be32_bytesOf, blockOf_blockWords, blockOf_blockWords] at h

/-- `t` is idle, with the error state and the hash key of `s` and the accumulator `x`. -/
structure State.GhashesTo (s : State) (x : Block128) (t : State) : Prop where
  busy : t.busy = false
  err : t.err = s.err
  ghH : t.ghH = s.ghH
  ghX : t.ghX = x

theorem runsThrough_ghashBlockProgram (b : Block128) (hb : s.busy = false) :
    ∃ t, RunsThrough s (ghashBlockProgram b) t ∧ s.GhashesTo (gfMul (s.ghX ^^^ b) s.ghH) t := by
  have hupdate := runsThrough_cmd (i := .ghashUpdate 16#5) (s := { s with ghIn := b }) hb (by decide) nofun
    (exec_ghashUpdate _ _)
  rw [ghashBlockProgram_eq_wrblk]
  refine ⟨_, (runsThrough_wrblk_ghIn b hb).append hupdate, rfl, rfl, rfl, ?_⟩
  simp [keepBytes_sixteen]

/-- The accumulator goes through the blocks from whatever it holds (43_ghash.md R214). -/
theorem runsThrough_ghashBlockPrograms (blocks : List Block128) (hb : s.busy = false) :
    ∃ t, RunsThrough s (blocks.flatMap ghashBlockProgram) t ∧
      s.GhashesTo (blocks.foldl (fun y b => gfMul (y ^^^ b) s.ghH) s.ghX) t := by
  induction blocks generalizing s with
  | nil => exact ⟨s, .nil s, hb, rfl, rfl, rfl⟩
  | cons b blocks ih =>
    obtain ⟨t, hrun, ht⟩ := runsThrough_ghashBlockProgram b hb
    obtain ⟨u, hrun', hu⟩ := ih ht.busy
    refine ⟨u, hrun.append hrun', hu.busy, hu.err.trans ht.err, hu.ghH.trans ht.ghH, ?_⟩
    rw [hu.ghX, ht.ghX, ht.ghH, List.foldl_cons]

theorem length_ghashBlockPrograms (blocks : List Block128) :
    (blocks.flatMap ghashBlockProgram).length = 6 * blocks.length := by
  simp [List.length_flatMap, ghashBlockProgram, Nat.mul_comm]

end Sys2Proof.Machine
end

section
/-! PROOFS. The statements of the family 43_ghash.md. -/

namespace Sys2Proof.Proofs

open Sys2Proof.Machine

/-- Settles O50: the sequences are `gfZ` and `gfV` of X and H. -/
theorem gfMulFollowsShiftAndXor : Obligations.GfMulFollowsShiftAndXor := by
  intro s
  refine ⟨gfZ s.ghX s.ghH, gfV s.ghH, rfl, rfl, fun i _ => ⟨rfl, rfl⟩, ?_⟩
  rw [exec_gfMul, gfMul_eq_gfZ]
  rfl

/-- Settles O55: each block's program takes the accumulator one step along the fold that GHASH is. -/
theorem ghashProgramComputesGhash : Obligations.GhashProgramComputesGhash := by
  intro s blocks rest hb hx he
  obtain ⟨t, hrun, ht⟩ := runsThrough_ghashBlockPrograms blocks hb
  refine ⟨t.withEvents rest, ?_, ?_, ht.ghH, ht.busy, ht.err, rfl⟩
  · rw [← length_ghashBlockPrograms]
    exact hrun.run he
  · rw [← hx]
    exact ht.ghX

end Sys2Proof.Proofs
end

section
/-! SUPPORT. The decoder and the encoder against each other: a command's word holds its operand, and a word without
stray bits is put together again from its opcode and its operand (30_encoding.md R80 to R87). -/

namespace Sys2Proof

/-! ## The operand of a command's word -/

/-- An operand above the opcode is read back (30_encoding.md R83). -/
theorem extractLsb'_opcode_or_operand (b : Byte) {k : Nat} (n : BitVec k) (hk : 8 + k ≤ 32) :
    (b.setWidth 32 ||| n.setWidth 32 <<< 8).extractLsb' 8 k = n := by
  refine BitVec.eq_of_getLsbD_eq fun j hj => ?_
  have hword : 8 + j < 32 := by omega
  simp [hj, hword]

theorem decodePfx_encodePfx (p : Pfx) : decodePfx (encodePfx p) = some p := by
  cases p <;> rfl

/-- The fields of a command's word are those of the command (30_encoding.md R83, R84). -/
theorem fieldsOf_encode (i : Instr) : fieldsOf i.op (encode i) = some i := by
  cases i with
  | sm3Init p =>
    have hfield : (encode (.sm3Init p)).extractLsb' 8 2 = encodePfx p :=
      extractLsb'_opcode_or_operand 0x20#8 (encodePfx p) (by decide)
    simp [Instr.op, fieldsOf, hfield, decodePfx_encodePfx]
  | sm3Update n => exact congrArg (some ∘ Instr.sm3Update) (extractLsb'_opcode_or_operand 0x21#8 n (by decide))
  | ghashUpdate n => exact congrArg (some ∘ Instr.ghashUpdate) (extractLsb'_opcode_or_operand 0x31#8 n (by decide))
  | _ => rfl

theorem rowOf_encode (i : Instr) : Laws.RowOfEncoding.Statement i := by
  cases i with
  | nop => exact Laws.RowOfEncoding.nop
  | zeroize => exact Laws.RowOfEncoding.zeroize
  | sm4Keyexp => exact Laws.RowOfEncoding.sm4Keyexp
  | sm4Enc => exact Laws.RowOfEncoding.sm4Enc
  | sm4Dec => exact Laws.RowOfEncoding.sm4Dec
  | sm3Init p => exact Laws.RowOfEncoding.sm3Init p
  | sm3Update n => exact Laws.RowOfEncoding.sm3Update n
  | sm3Final => exact Laws.RowOfEncoding.sm3Final
  | sm3Compress => exact Laws.RowOfEncoding.sm3Compress
  | merkleNode => exact Laws.RowOfEncoding.merkleNode
  | gfMul => exact Laws.RowOfEncoding.gfMul
  | ghashUpdate n => exact Laws.RowOfEncoding.ghashUpdate n

/-- A command with a legal operand is what its word decodes to (30_encoding.md R82 to R85). -/
theorem decode_encode {i : Instr} (h : WellFormed i) : decode (encode i) = .instr i := by
  obtain ⟨row, hrow, hop, hmask⟩ := rowOf_encode i
  have hfields : fieldsOf row.op (encode i) = some i := hop ▸ fieldsOf_encode i
  simp only [decode, hrow, if_pos hmask, hfields, if_pos h]

/-! ## A word from its opcode and its operand -/

/-- A word with no bit above an operand of `k` bits is its opcode and that operand (30_encoding.md R80, R83). -/
theorem opcode_or_operand_eq {w : Word} (k : Nat) (h : w >>> (8 + k) = 0#32) :
    (opField w).setWidth 32 ||| (w.extractLsb' 8 k).setWidth 32 <<< 8 = w := by
  refine BitVec.eq_of_getLsbD_eq fun j hj => ?_
  simp only [opField, BitVec.getLsbD_or, BitVec.getLsbD_setWidth, BitVec.getLsbD_shiftLeft, BitVec.getLsbD_extractLsb',
    hj, decide_true, Bool.true_and, Nat.zero_add]
  by_cases hop : j < 8
  · simp [hop]
  · have hplace : 8 + (j - 8) = j := by omega
    by_cases hfield : j - 8 < k
    · simp [hop, hfield, hplace]
      omega
    · have hzero := ushiftRight_eq_zero_iff.1 h j hj (by omega)
      simp [hop, hfield, hzero]

theorem encodePfx_of_decodePfx {f : BitVec 2} {p : Pfx} (h : decodePfx f = some p) : encodePfx p = f := by
  have table : ∀ f : BitVec 2, (decodePfx f).all (fun p => encodePfx p == f) = true := by decide
  simpa [h] using table f

/-- A word whose bits above its operation's operand are 0 is the word of the command its fields make. -/
theorem encode_of_fieldsOf {op : Op} {w : Word} {i : Instr} (hop : opField w = op.code) (hz : w >>> op.fieldEnd = 0#32)
    (hf : fieldsOf op w = some i) : encode i = w := by
  have hw (k : Nat) (hk : op.fieldEnd = 8 + k) :
      op.code.setWidth 32 ||| (w.extractLsb' 8 k).setWidth 32 <<< 8 = w := by
    rw [← hop]
    exact opcode_or_operand_eq k (hk ▸ hz)
  cases op with
  | sm3Init =>
    obtain ⟨p, hp, rfl⟩ := Option.map_eq_some_iff.1 hf
    rw [encode, encodePfx_of_decodePfx hp]
    exact hw 2 rfl
  | sm3Update =>
    cases hf
    exact hw 7 rfl
  | ghashUpdate =>
    cases hf
    exact hw 5 rfl
  | _ =>
    cases hf
    simpa [Op.code, encode, BitVec.of_length_zero] using hw 0 rfl

/-- Matching a row of the table is having its opcode and zeros above its operand (30_encoding.md R83, R87). -/
theorem matches_row_iff {row : OpcodeRow} (hrow : row ∈ opcodeTable) {w : Word} :
    w &&& row.mask = row.pattern ↔ opField w = row.op.code ∧ w >>> row.op.fieldEnd = 0#32 := by
  obtain ⟨hmask, hpat, -, hend⟩ := opcodeTable_row row hrow
  rw [hmask, hpat, and_mask_eq_iff hend]

/-- A word that decodes is the word of its command (30_encoding.md R85, R87). -/
theorem encode_of_decode {w : Word} {i : Instr} (h : decode w = .instr i) : WellFormed i ∧ encode i = w := by
  obtain ⟨row, hrow, hmask, hf, hwf⟩ := decode_eq_instr h
  obtain ⟨hop, hz⟩ := (matches_row_iff (rowOf_mem hrow).1).1 hmask
  exact ⟨hwf, encode_of_fieldsOf hop hz hf⟩

theorem rowOf_code : ∀ row ∈ opcodeTable, rowOf row.op.code = some row := by decide

end Sys2Proof
end

section
/-! PROOFS. The statements about the encoding. -/

namespace Sys2Proof.Proofs

/-- Settles O1: the command's word matches the row of its operation, and its fields are the command's. -/
theorem decodingAnEncodedCommandGivesItBack : Obligations.DecodingAnEncodedCommandGivesItBack :=
  fun _ h => decode_encode h

/-- Settles O2: the mask leaves the opcode and the operand, of which the word is put together again. -/
theorem decodedWordIsTheEncodingOfItsCommand : Obligations.DecodedWordIsTheEncodingOfItsCommand :=
  fun _ _ h => encode_of_decode h

/-- Settles O3: a row that matches has the word's opcode, and one opcode selects one row. -/
theorem noWordMatchesTwoRows : Obligations.NoWordMatchesTwoRows := by
  intro w r r' hr hr' hm hm'
  have hop := ((matches_row_iff hr).1 hm).1
  have hop' := ((matches_row_iff hr').1 hm').1
  have hsame : some r = some r' := by rw [← rowOf_code r hr, ← rowOf_code r' hr', ← hop, ← hop']
  exact Option.some.inj hsame

/-- Settles O5: each word is that of its command, which decodes by `decode_encode`. -/
theorem sampleWordsDecode : Obligations.SampleWordsDecode :=
  ⟨decode_encode (i := .nop) rfl, decode_encode (i := .sm4Enc) rfl, decode_encode (i := .sm3Init .node) rfl,
    decode_encode (i := .sm3Update 64#7) rfl, decode_encode (i := .merkleNode) rfl,
    decode_encode (i := .ghashUpdate 15#5) rfl⟩

end Sys2Proof.Proofs
end

section
/-! SUPPORT. What every step keeps: the invariant through each operation, and what a bus write and a completion leave
of STATUS and of the hidden state (10_state.md R29, R42; 40_system.md R101 to R108). -/

namespace Sys2Proof.Machine

variable {s t : State} {v w : Word} {rest : List Event}

/-! ## The invariant through each operation -/

/-- The invariant speaks of STATUS and INFLIGHT alone. -/
theorem State.Inv.of_eq (hs : s.Inv) (hbusy : t.busy = s.busy) (hdone : t.done = s.done) (herr : t.err = s.err)
    (hcode : t.errCode = s.errCode) (hkey : t.keyValid = s.keyValid) (hinf : t.inflight = s.inflight) : t.Inv where
  busy_iff_inflight := by rw [hbusy, hinf, hs.busy_iff_inflight]
  not_busy_and_done := by rw [hbusy, hdone]; exact hs.not_busy_and_done
  err_iff_errCode := by rw [herr, hcode]; exact hs.err_iff_errCode
  errCode_le_four := by rw [hcode]; exact hs.errCode_le_four
  inflight_legal := by rw [hinf, hkey]; exact hs.inflight_legal

theorem State.Inv.withEvents (hs : s.Inv) (es : List Event) : (s.withEvents es).Inv := hs.of_eq rfl rfl rfl rfl rfl rfl

/-- The code of an error is 1 to 4 (60_exceptions.md R252). -/
theorem ErrorKind.code_bounds (e : ErrorKind) : e.code ≠ 0#4 ∧ e.code.toNat ≤ 4 := by
  cases e <;> decide

theorem State.Inv.raiseError (hs : s.Inv) (e : ErrorKind) : (s.raiseError e).Inv := by
  obtain ⟨hne, hle⟩ := e.code_bounds
  cases herr : s.err with
  | true =>
    have hsame : s.raiseError e = s := by simp [State.raiseError, herr]
    rwa [hsame]
  | false => exact
    { busy_iff_inflight := by simpa using hs.busy_iff_inflight
      not_busy_and_done := by simpa using hs.not_busy_and_done
      err_iff_errCode := by simpa [herr] using hne
      errCode_le_four := by simpa [herr] using hle
      inflight_legal := by simpa using hs.inflight_legal }

/-- A rejection of a command written while idle. -/
theorem State.Inv.reject (hs : s.Inv) (hb : s.busy = false) (e : ErrorKind) : (s.reject e).Inv := by
  have hdone : ({ s with done := true } : State).Inv := { hs with not_busy_and_done := by simp [hb] }
  exact hdone.raiseError e

theorem State.Inv.accept {i : Instr} (hs : s.Inv) (hd : decode w = .instr i)
    (hk : needsKey i = true → s.keyValid = true) : (s.accept w).Inv where
  busy_iff_inflight := rfl
  not_busy_and_done := by simp
  err_iff_errCode := hs.err_iff_errCode
  errCode_le_four := hs.errCode_le_four
  inflight_legal := by
    rintro c ⟨⟩
    exact ⟨i, by rw [Inflight.word_of_decode hd, hd], hk⟩

theorem State.Inv.issue (hs : s.Inv) (hb : s.busy = false) : (s.issue w).Inv := by
  obtain ⟨-, hi⟩ | ⟨-, hi⟩ | ⟨i, -, -, -, hi⟩ | ⟨i, hd, hk, hi⟩ := State.issue_cases w s
  · exact hi ▸ hs.reject hb _
  · exact hi ▸ hs.reject hb _
  · exact hi ▸ hs.reject hb _
  · exact hi ▸ hs.accept hd hk

theorem State.Inv.writeStatus (hs : s.Inv) : (s.writeStatus v).Inv where
  busy_iff_inflight := hs.busy_iff_inflight
  not_busy_and_done := fun ⟨hb, hd⟩ => hs.not_busy_and_done ⟨hb, (Bool.and_eq_true_iff.1 hd).1⟩
  err_iff_errCode := by
    rw [State.writeStatus_err, State.writeStatus_errCode]
    cases v.getLsbD 2 with
    | true => simp
    | false => simpa using hs.err_iff_errCode
  errCode_le_four := by
    rw [State.writeStatus_errCode]
    cases v.getLsbD 2 with
    | true => simp
    | false => simpa using hs.errCode_le_four
  inflight_legal := hs.inflight_legal

theorem State.Inv.busWrite (hs : s.Inv) (r : Reg) : (s.busWrite (some r) v).Inv := by
  obtain ⟨-, -, hw⟩ | ⟨-, hw⟩ | ⟨-, hw⟩ | ⟨-, hb, hw⟩ | ⟨h1, h2, h3, -, hw⟩ := State.busWrite_reg_cases r v s
  · exact hw ▸ hs.raiseError _
  · exact hw ▸ hs.of_eq rfl rfl rfl rfl rfl rfl
  · exact hw ▸ hs.writeStatus
  · exact hw ▸ hs.issue hb
  · obtain ⟨-, hbusy, hdone, herr, hcode, hkey, hinf, -, -⟩ := State.store_control r v s h1 h2 h3
    exact hw ▸ hs.of_eq hbusy hdone herr hcode hkey hinf

/-- A completion ends with nothing in flight, so of the invariant only the error state is left to keep. -/
theorem State.Inv.exec {i : Instr} (hs : s.Inv) (h : exec i s = .next t) : t.Inv := by
  obtain ⟨hinf, hbusy, hdone, -, herr, hcode, -, -, -⟩ := exec_next h
  exact
    { busy_iff_inflight := by rw [hbusy, hinf]; rfl
      not_busy_and_done := by simp [hbusy]
      err_iff_errCode := by rw [herr, hcode]; exact hs.err_iff_errCode
      errCode_le_four := by rw [hcode]; exact hs.errCode_le_four
      inflight_legal := by simp [hinf] }

theorem reset_inv : State.reset.Inv where
  busy_iff_inflight := rfl
  not_busy_and_done := by decide
  err_iff_errCode := by decide
  errCode_le_four := by decide
  inflight_legal := nofun

theorem State.resetNow_inv : s.resetNow.Inv := reset_inv.of_eq rfl rfl rfl rfl rfl rfl

/-- Every step keeps the invariant, whatever the event (10_state.md R29, R42; 40_system.md R103). -/
theorem State.Inv.step (hs : s.Inv) (h : step s = .next t) : t.Inv := by
  obtain ⟨a, rest, d, n, -, rfl⟩ | ⟨a, v, rest, -, -, rfl⟩ | ⟨r, v, rest, -, rfl⟩ | ⟨i, rest, -, -, -, hx⟩ |
    ⟨rest, -, -, -, rfl⟩ | ⟨rest, -, rfl⟩ := step_cases h
  · exact hs.of_eq rfl rfl rfl rfl rfl rfl
  · exact hs.withEvents rest
  · exact (hs.withEvents rest).busWrite r
  · exact (hs.withEvents rest).exec hx
  · exact hs.withEvents rest
  · exact State.resetNow_inv

/-! ## Proper events go on -/

theorem State.busRead_events (r : Option Reg) : (s.busRead r).events = s.events := by
  rw [State.busRead_eq]

theorem State.busWrite_events (r : Option Reg) : (s.busWrite r v).events = s.events := by
  obtain ⟨-, hw⟩ | ⟨g, -, -, -, hw⟩ | ⟨g, -, -, hw⟩ := State.busWrite_cases r v s
  · rw [hw]
  · rw [hw, State.raiseError_events]
  · rw [hw, (State.store_own g v s).1]

/-- The engine's step stops in no state of the invariant (40_system.md R106; log 11). -/
theorem State.Inv.engineStep (hs : s.Inv) : ∃ t, engineStep s = .next t ∧ t.events = s.events ∧
    t.busy = false ∧ t.inflight = none := by
  cases hinf : s.inflight with
  | none => exact ⟨s, engineStep_idle hinf, rfl, by simp [hs.busy_iff_inflight, hinf], hinf⟩
  | some c =>
    obtain ⟨i, hd, -⟩ := hs.inflight_legal c hinf
    obtain ⟨u, hu, -, -, -, hevents, -, -⟩ := exec_eq_finish i s
    exact ⟨u.finish, (engineStep_instr hinf hd).trans hu, hevents, rfl, rfl⟩

/-- A proper event is taken off the list and handled, without a stop (20_memory.md R61, R64; 40_system.md R106). -/
theorem State.Inv.step_proper {e : Event} (hs : s.Inv) (he : s.events = e :: rest) (hp : e.proper) :
    ∃ t, Machine.step s = .next t ∧ t.events = rest := by
  rw [step_cons he]
  cases e with
  | read addr bytes => exact ⟨_, by rw [handle, busAccess_proper hp], State.busRead_events _⟩
  | write addr bytes v => exact ⟨_, by rw [handle, busAccess_proper hp], State.busWrite_events _⟩
  | complete =>
    obtain ⟨t, ht, hevents, -, -⟩ := (hs.withEvents rest).engineStep
    exact ⟨t, ht, hevents⟩
  | reset => exact ⟨_, rfl, rfl⟩

/-- From the invariant, a list of proper events is run through, and one more step is the engine's (log 3). -/
theorem State.Inv.run_proper {es : List Event} (hs : s.Inv) (he : s.events = es) (hp : ∀ e ∈ es, e.proper) :
    ∃ t, Host.Core.run core (es.length + 1) s = .next t ∧ t.busy = false ∧ t.inflight = none ∧ t.events = [] := by
  induction es generalizing s with
  | nil =>
    obtain ⟨t, ht, hevents, hbusy, hinf⟩ := hs.engineStep
    exact ⟨t, run_succ 0 ((step_nil he).trans ht), hbusy, hinf, hevents.trans he⟩
  | cons e es ih =>
    obtain ⟨hpe, hpes⟩ := List.forall_mem_cons.1 hp
    obtain ⟨t, ht, hevents⟩ := hs.step_proper he hpe
    obtain ⟨u, hu, hend⟩ := ih (hs.step ht) hevents hpes
    exact ⟨u, (run_succ _ ht).trans hu, hend⟩

end Sys2Proof.Machine
end

section
/-! SUPPORT. The host's view of a command: what its CMD write leaves, where a placed word stands, and what of the
hidden state a bus write and a completion keep (40_system.md R101 to R108; log 12). -/

namespace Sys2Proof.Machine

variable {s t : State} {v w : Word} {rest : List Event} {i : Instr}

/-! ## A placed word -/

theorem State.withFetchWord_toNat (s : State) (w : Word) : s.withFetchWord 32 w.toNat = s.placeWord w := by
  rw [State.withFetchWord, Nat.mod_eq_of_lt w.isLt, BitVec.ofNat_toNat, BitVec.setWidth_eq]

theorem State.placeWord_of_decode (hd : decode w = .instr i) :
    s.placeWord w = (s.accept w).withEvents (.complete :: s.events) := by
  simp only [State.placeWord, hd]
  rfl

/-- The engine's step right after a word was accepted is its command's completion (40_system.md R103, R106). -/
theorem engineStep_accept (hd : decode w = .instr i) : engineStep (s.accept w) = exec i s := by
  have hword : decode (Inflight.word ⟨opField w, argField w⟩) = .instr i := by rw [Inflight.word_of_decode hd, hd]
  rw [engineStep_instr rfl hword, exec_accept]

/-! ## A CMD write -/

theorem State.issue_busy_or_done : (s.issue w).busy = true ∨ (s.issue w).done = true := by
  obtain ⟨-, hi⟩ | ⟨-, hi⟩ | ⟨i, -, -, -, hi⟩ | ⟨i, -, -, hi⟩ := State.issue_cases w s
  · exact .inr (hi ▸ State.reject_done s _)
  · exact .inr (hi ▸ State.reject_done s _)
  · exact .inr (hi ▸ State.reject_done s _)
  · exact .inl (hi ▸ rfl)

/-- While busy the write is dropped and BUSY stays; while idle it is an issue (40_system.md R102, R103). -/
theorem State.busWrite_cmd_busy_or_done :
    (s.busWrite (some .cmd) w).busy = true ∨ (s.busWrite (some .cmd) w).done = true := by
  obtain ⟨-, hb, hw⟩ | ⟨h, -⟩ | ⟨h, -⟩ | ⟨-, -, hw⟩ | ⟨-, -, h, -⟩ := State.busWrite_reg_cases .cmd w s
  · exact .inl (by rw [hw, State.raiseError_busy, hb])
  · cases h
  · cases h
  · rw [hw]
    exact State.issue_busy_or_done
  · exact absurd rfl h

/-! ## The hidden state -/

/-- What no host access writes: the round keys, the output block and the byte buffer (10_state.md R33, R34, R44). -/
structure State.KeepsHidden (s t : State) : Prop where
  rk : t.rk = s.rk
  sm4Dout : t.sm4Dout = s.sm4Dout
  buf : t.buf = s.buf

theorem State.keepsHidden_issue : s.KeepsHidden (s.issue w) := by
  obtain ⟨-, hi⟩ | ⟨-, hi⟩ | ⟨i, -, -, -, hi⟩ | ⟨i, -, -, hi⟩ := State.issue_cases w s
  all_goals
    rw [hi]
    constructor <;> simp

theorem State.keepsHidden_store (r : Reg) : s.KeepsHidden (s.store r v) := by
  cases r with
  | cmd => exact State.keepsHidden_issue
  | _ => exact ⟨rfl, rfl, rfl⟩

theorem State.keepsHidden_busWrite (r : Option Reg) : s.KeepsHidden (s.busWrite r v) := by
  obtain ⟨-, hw⟩ | ⟨g, -, -, -, hw⟩ | ⟨g, -, -, hw⟩ := State.busWrite_cases r v s
  · rw [hw]
    exact ⟨rfl, rfl, rfl⟩
  · rw [hw]
    constructor <;> simp
  · exact hw ▸ State.keepsHidden_store g

/-- Only SM4_KEYEXP and ZEROIZE have RK in their write sets (40_system.md R108). -/
theorem exec_rk (h : exec i s = .next t) (h1 : i ≠ .sm4Keyexp) (h2 : i ≠ .zeroize) : t.rk = s.rk := by
  cases i with
  | sm4Keyexp => exact absurd rfl h1
  | zeroize => exact absurd rfl h2
  | _ =>
    injection h with h
    simp [← h]

/-- Only the block commands and ZEROIZE have `SM4_DOUT` in their write sets (40_system.md R108). -/
theorem exec_sm4Dout (h : exec i s = .next t) (h1 : i ≠ .sm4Enc) (h2 : i ≠ .sm4Dec) (h3 : i ≠ .zeroize) :
    t.sm4Dout = s.sm4Dout := by
  cases i with
  | sm4Enc => exact absurd rfl h1
  | sm4Dec => exact absurd rfl h2
  | zeroize => exact absurd rfl h3
  | _ =>
    injection h with h
    simp [← h]

/-- The commands with BUF in their write sets (40_system.md R108). -/
theorem exec_buf (h : exec i s = .next t)
    (hop : i.op ∉ [Op.zeroize, .sm3Init, .sm3Update, .sm3Final, .merkleNode]) : t.buf = s.buf := by
  cases i with
  | zeroize | sm3Init | sm3Update | sm3Final | merkleNode => simp [Instr.op] at hop
  | _ =>
    injection h with h
    simp [← h]

/-- A step that is neither a completion nor a reset keeps the hidden state (10_state.md R33, R34, R44). -/
theorem step_keepsHidden_or (h : step s = .next t) :
    s.KeepsHidden t ∨ s.resets ∨ ∃ i rest, s.completes i ∧ exec i (s.withEvents rest) = .next t := by
  obtain ⟨a, rest, d, n, -, rfl⟩ | ⟨a, v, rest, -, -, rfl⟩ | ⟨r, v, rest, -, rfl⟩ | ⟨i, rest, hc, -, -, hx⟩ |
    ⟨rest, -, -, -, rfl⟩ | ⟨rest, he, -⟩ := step_cases h
  · exact .inl ⟨rfl, rfl, rfl⟩
  · exact .inl ⟨rfl, rfl, rfl⟩
  · obtain ⟨hrk, hdout, hbuf⟩ := State.keepsHidden_busWrite (s := s.withEvents rest) (v := v) (some r)
    exact .inl ⟨hrk, hdout, hbuf⟩
  · exact .inr (.inr ⟨i, rest, hc, hx⟩)
  · exact .inl ⟨rfl, rfl, rfl⟩
  · exact .inr (.inl ⟨rest, he⟩)

end Sys2Proof.Machine
end

section
/-! PROOFS. The statements about steps, the invariant, commands and reset. -/

namespace Sys2Proof.Proofs

open Sys2Proof.Machine

/-- Settles O24: each operation a step can be keeps the invariant. -/
theorem everyStepKeepsTheInvariant : Obligations.EveryStepKeepsTheInvariant := fun _ _ hs h => hs.step h

/-- Settles O25. -/
theorem resetMeetsTheInvariant : Obligations.ResetMeetsTheInvariant := reset_inv

/-- Settles O59: the invariant goes along the run, and in it no proper event and no engine's step stops. -/
theorem everyCommandCompletes : Obligations.EveryCommandCompletes := fun _ hs hp => hs.run_proper rfl hp

/-- Settles O6: on either turn the step is the engine's, with the command in flight. -/
theorem engineStepRunsTheCommandInFlight : Obligations.EngineStepRunsTheCommandInFlight := by
  intro s c i hc hd
  refine ⟨fun he => ?_, fun rest he => ?_⟩
  · rw [step_nil he, engineStep_instr hc hd]
  · rw [step_complete he]
    exact engineStep_instr (s := s.withEvents rest) hc hd

/-- Settles O7: the acceptance and the completion are run through as in a host program, and the command's word decodes
to it. -/
theorem writtenCommandRunsToItsResult : Obligations.WrittenCommandRunsToItsResult := by
  intro s i rest hwf hb hk he
  obtain ⟨u, hu, -⟩ := exec_eq_finish i s
  rw [exec_withEvents rest hu]
  exact (runsThrough_cmd hb (decode_encode hwf) hk hu).run he

/-- Settles O8: a placed word stands where an accepted one does, with its completion next. -/
theorem placedWordRunsNext : Obligations.PlacedWordRunsNext := by
  intro s w i hd
  rw [State.withFetchWord_toNat, State.placeWord_of_decode hd, step_complete rfl]
  exact engineStep_accept (s := s) hd

/-- Settles O10: `resetNow` has every field of the spec from the reset state. -/
theorem resetDiscardsTheCommandInFlight : Obligations.ResetDiscardsTheCommandInFlight :=
  fun s rest he => ⟨(s.withEvents rest).resetNow, step_reset he, rfl, rfl⟩

/-- Settles O23: only a rejection and a dropped write touch the error state while it is kept, and they record nothing
when ERR is 1. -/
theorem firstErrorIsKept : Obligations.FirstErrorIsKept := by
  intro s t h herr hnr hclear
  obtain hk | ⟨i, hc⟩ | hr | ha | hrej | hdrop | ⟨v, hw⟩ := step_status_cases h
  · exact ⟨hk.err.trans herr, hk.errCode⟩
  · exact ⟨(hasStatus_of_completes h hc).err.trans herr, (hasStatus_of_completes h hc).errCode⟩
  · exact absurd hr hnr
  · exact ⟨(hasStatus_of_accepts h ha).err.trans herr, (hasStatus_of_accepts h ha).errCode⟩
  · obtain ⟨e, rest, hs⟩ := step_of_rejects hrej
    cases hs.symm.trans h
    simp [herr]
  · obtain ⟨rest, hs⟩ := step_of_drops hdrop
    cases hs.symm.trans h
    simp [herr]
  · have hst := hasStatus_of_hostWrites_status h hw
    rw [hst.err, hst.errCode, hclear v hw]
    simp [herr]

/-- Settles O26: a dropped write leaves BUSY 1, a rejection DONE 1, an acceptance BUSY 1. -/
theorem cmdWriteLeavesBusyOrDone : Obligations.CmdWriteLeavesBusyOrDone :=
  fun _ _ _ he => ⟨_, step_wr he, State.busWrite_cmd_busy_or_done⟩

/-- Settles O31: a step that changes one of the three is a completion, and its command has that one in its write set. -/
theorem hiddenStateChangesOnlyByItsCommands : Obligations.HiddenStateChangesOnlyByItsCommands := by
  intro s t h hnr hnz
  obtain ⟨hrk, hdout, hbuf⟩ | hr | ⟨i, rest, hc, hx⟩ := step_keepsHidden_or h
  · exact ⟨fun _ => hrk, fun _ _ => hdout, fun _ _ _ _ => hbuf⟩
  · exact absurd hr hnr
  · have other {j : Instr} (hj : ¬s.completes j) : i ≠ j := fun hij => hj (hij ▸ hc)
    refine ⟨fun hk => ?_, fun he hd => ?_, fun hi hu hf hm => ?_⟩
    · exact exec_rk (s := s.withEvents rest) hx (other hk) (other hnz)
    · exact exec_sm4Dout (s := s.withEvents rest) hx (other he) (other hd) (other hnz)
    · refine exec_buf (s := s.withEvents rest) hx ?_
      cases i with
      | zeroize => exact absurd hc hnz
      | sm3Init p => exact absurd hc (hi p)
      | sm3Update n => exact absurd hc (hu n)
      | sm3Final => exact absurd hc hf
      | merkleNode => exact absurd hc hm
      | _ => simp [Instr.op]

/-- Settles O33: the engine has nothing to do. -/
theorem idleMachineKeepsItsState : Obligations.IdleMachineKeepsItsState :=
  fun _ he hinf => (step_nil he).trans (engineStep_idle hinf)

/-- Settles O34: the common end of a completion, written out. -/
theorem nopOnlyCompletes : Obligations.NopOnlyCompletes := exec_nop

/-- Settles O35: what `State.zeroized` does not clear is what the statement keeps. -/
theorem zeroizeLeavesTheResetData : Obligations.ZeroizeLeavesTheResetData := exec_zeroize

end Sys2Proof.Proofs
end

section
/-! SUPPORT. The register map by its offsets, and what a store shows to the reads after it (10_state.md R21, R24, R41,
R45; 40_system.md R100, R101, R107). -/

namespace Sys2Proof.Machine

variable {s : State} {v : Word} {rest : List Event}

/-! ## The value at an offset -/

/-- The register map as a table over the window's offsets, 0 where nothing can be read (40_system.md R100; 10_state.md
R24, R41, R45). -/
def State.valueAt (s : State) (off : Nat) : Word :=
  if off = 0x000 then 0x534D4331#32
  else if off = 0x004 then BitVec.ofNat 32 s.ie.toNat
  else if off = 0x008 then
    BitVec.ofNat 32 (s.busy.toNat + 2 * s.done.toNat + 4 * s.err.toNat + 8 * s.keyValid.toNat + 256 * s.errCode.toNat)
  else if 0x110 ≤ off ∧ off < 0x120 then s.sm4Din.toList.getD ((off - 0x110) / 4) 0#32
  else if 0x120 ≤ off ∧ off < 0x130 then s.sm4Dout.toList.getD ((off - 0x120) / 4) 0#32
  else if 0x200 ≤ off ∧ off < 0x220 then s.sm3V.toList.getD ((off - 0x200) / 4) 0#32
  else if off = 0x220 then BitVec.ofNat 32 s.cnt.toNat
  else if off = 0x224 then BitVec.ofNat 32 (s.cnt.toNat / 2 ^ 32)
  else if 0x240 ≤ off ∧ off < 0x280 then s.sm3Msg.toList.getD ((off - 0x240) / 4) 0#32
  else if 0x300 ≤ off ∧ off < 0x310 then BitVec.ofNat 32 (s.ghH.toNat / 2 ^ (96 - 32 * ((off - 0x300) / 4)))
  else if 0x310 ≤ off ∧ off < 0x320 then BitVec.ofNat 32 (s.ghX.toNat / 2 ^ (96 - 32 * ((off - 0x310) / 4)))
  else if 0x320 ≤ off ∧ off < 0x330 then BitVec.ofNat 32 (s.ghIn.toNat / 2 ^ (96 - 32 * ((off - 0x320) / 4)))
  else 0#32

theorem State.valueAt_reserved {off : Nat} (h : ReservedOffset off) : s.valueAt off = 0#32 := by
  unfold State.valueAt
  repeat rw [if_neg (by omega)]

theorem ctrlWord_eq_ofNat : s.ctrlWord = BitVec.ofNat 32 s.ie.toNat := by
  rw [State.ctrlWord, flagWord]
  cases s.ie <;> rfl

/-- The bits of STATUS as a sum (10_state.md R24). -/
theorem statusWord_eq_ofNat : s.statusWord = BitVec.ofNat 32
    (s.busy.toNat + 2 * s.done.toNat + 4 * s.err.toNat + 8 * s.keyValid.toNat + 256 * s.errCode.toNat) := by
  have table : ∀ (b d e k : Bool) (c : BitVec 4),
      flagWord b ||| (flagWord d <<< 1) ||| (flagWord e <<< 2) ||| (flagWord k <<< 3) ||| (c.setWidth 32 <<< 8) =
        BitVec.ofNat 32 (b.toNat + 2 * d.toNat + 4 * e.toNat + 8 * k.toNat + 256 * c.toNat) := by
    decide +kernel
  exact table _ _ _ _ _

theorem quadWord_eq_ofNat (y : Block128) (i : Fin 4) :
    quadWord y i = BitVec.ofNat 32 (y.toNat / 2 ^ (96 - 32 * i.val)) := by
  rw [quadWord, BitVec.extractLsb', Nat.shiftRight_eq_div_pow]

theorem cntHi_eq_ofNat (c : BitVec 64) : cntHi c = BitVec.ofNat 32 (c.toNat / 2 ^ 32) := by
  rw [cntHi, BitVec.extractLsb', Nat.shiftRight_eq_div_pow]

/-- Word `i` of a group is `(off - group base) / 4` (40_system.md R100). -/
theorem add_four_mul_sub_div (base i : Nat) : (base + 4 * i - base) / 4 = i := by
  omega

/-- At a register's offset the table holds what the register shows (10_state.md R21). -/
theorem State.valueAt_of_offset {r : Reg} {off : Nat} (h : r.offset = off) : s.valueAt off = s.peek r := by
  cases r with
  | id | cmd | sm3CntLo =>
    subst h
    rfl
  | ctrl => exact h ▸ ctrlWord_eq_ofNat.symm
  | status => exact h ▸ statusWord_eq_ofNat.symm
  | sm3CntHi => exact h ▸ (cntHi_eq_ofNat s.cnt).symm
  | sm4Key i =>
    simp only [Reg.offset] at h
    unfold State.valueAt
    repeat rw [if_neg (by omega)]
    rfl
  | sm4Din i | sm4Dout i | sm3V i | sm3Msg i | ghH i | ghX i | ghIn i =>
    simp only [Reg.offset] at h
    unfold State.valueAt
    repeat rw [if_neg (by omega)]
    rw [if_pos (by omega), ← h, add_four_mul_sub_div]
    simp [State.peek, quadWord_eq_ofNat]

/-- The read port after a read of an offset with no command in flight (40_system.md R100). -/
theorem State.busRead_idle {off : Nat} (ha : off % 4 = 0) (hlt : off < 0x1000) (hinf : s.inflight = none) :
    s.busRead (Reg.ofOffset off) = { s with rdata := s.valueAt off } := by
  cases hr : Reg.ofOffset off with
  | none => rw [State.valueAt_reserved ((reservedOffset_iff_ofOffset hlt ha).2 hr), State.busRead]
  | some r =>
    rw [State.valueAt_of_offset (Reg.offset_of_ofOffset hr ha)]
    simp [State.busRead, State.readsFree, hinf]

/-- Where an access answers the same for every register, so does the step that makes it. -/
theorem step_of_busAccess {addr bytes : Nat} {answer : Answer} (h : ∀ act, busAccess addr bytes act = answer)
    (he : s.events = .read addr bytes :: rest ∨ s.events = .write addr bytes v :: rest) : step s = answer := by
  obtain he | he := he
  · rw [step_cons he, handle, h]
  · rw [step_cons he, handle, h]

/-! ## Reads in flight -/

theorem Inflight.opField_word (c : Inflight) : opField c.word = c.op := by
  refine BitVec.eq_of_getLsbD_eq fun k hk => ?_
  simp [opField, Inflight.word, hk, show k < 32 by omega]

/-- Of the registers a command can write, only `SM4_KEYi` is answered exactly in flight (40_system.md R107; log 10). -/
theorem Reg.readsExactly_of_inWriteSet {op : Op} {r : Reg} (h : inWriteSet op r = true) (hk : ∀ k, r ≠ .sm4Key k) :
    r.readsExactly = false := by
  cases r with
  | sm4Key k => exact absurd rfl (hk k)
  | id | ctrl | status | cmd => cases op <;> cases h
  | _ => rfl

theorem State.readsFree_eq {c : Inflight} {i : Instr} (hc : s.inflight = some c) (hd : decode c.word = .instr i)
    (r : Reg) : s.readsFree r = (inWriteSet i.op r && !r.readsExactly) := by
  have hop : opOf c.op = some i.op := c.opField_word ▸ opOf_of_decode hd
  simp only [State.readsFree, hc, hop]

/-- A read that gives an arbitrary value is the next draw (40_system.md R107; log 6). -/
theorem State.busRead_free {r : Reg} (h : s.readsFree r = true) :
    s.busRead (some r) = { s with rdata := Config.inflightRead s.draws, draws := s.draws + 1 } := if_pos h

theorem State.busRead_exact {r : Reg} (h : s.readsFree r = false) :
    s.busRead (some r) = { s with rdata := s.peek r } := if_neg (by simp [h])

/-! ## Stores -/

theorem cntHi_cntOf (hi lo : Word) : cntHi (cntOf hi lo) = hi := BitVec.extractLsb'_append_eq_left

theorem getElem_set_of_ne {n : Nat} (ws : Vector Word n) {i j : Fin n} (h : j ≠ i) : (ws.set i v)[j] = ws[j] :=
  Vector.getElem_set_ne i.isLt j.isLt (mt Fin.ext h.symm)

theorem quadWord_setQuadWord_of_ne (y : Block128) {i j : Fin 4} (h : j ≠ i) :
    quadWord (setQuadWord y i v) j = quadWord y j := by
  rw [quadWord_setQuadWord, if_neg h.symm]

/-- A guarded data register other than `SM4_KEYi` shows the word stored (40_system.md R101). -/
theorem State.peek_store_same {r : Reg} (hg : r.guarded = true) (hc : r ≠ .cmd) (hk : ∀ k, r ≠ .sm4Key k) :
    (s.store r v).peek r = v := by
  cases r with
  | id | ctrl | status | sm4Dout _ => cases hg
  | cmd => exact absurd rfl hc
  | sm4Key k => exact absurd rfl (hk k)
  | sm4Din i | sm3V i | sm3Msg i => simp [State.store, State.peek]
  | sm3CntLo => exact cntLo_cntOf _ _
  | sm3CntHi => exact cntHi_cntOf _ _
  | ghH i | ghX i | ghIn i => simp [State.store, State.peek, quadWord_setQuadWord]

/-- A store into a guarded data register shows nowhere else (40_system.md R101). -/
theorem State.peek_store_ne {r r' : Reg} (hg : r.guarded = true) (hc : r ≠ .cmd) (hr : r' ≠ r) :
    (s.store r v).peek r' = s.peek r' := by
  cases r with
  | id | ctrl | status | sm4Dout _ => cases hg
  | cmd => exact absurd rfl hc
  | sm4Key i =>
    cases r' with
    | _ => rfl
  | sm4Din i =>
    cases r' with
    | sm4Din j => exact getElem_set_of_ne _ (hr ∘ congrArg Reg.sm4Din)
    | _ => rfl
  | sm3V i =>
    cases r' with
    | sm3V j => exact getElem_set_of_ne _ (hr ∘ congrArg Reg.sm3V)
    | _ => rfl
  | sm3Msg i =>
    cases r' with
    | sm3Msg j => exact getElem_set_of_ne _ (hr ∘ congrArg Reg.sm3Msg)
    | _ => rfl
  | sm3CntLo =>
    cases r' with
    | sm3CntLo => exact absurd rfl hr
    | sm3CntHi => exact cntHi_cntOf _ _
    | _ => rfl
  | sm3CntHi =>
    cases r' with
    | sm3CntLo => exact cntLo_cntOf _ _
    | sm3CntHi => exact absurd rfl hr
    | _ => rfl
  | ghH i =>
    cases r' with
    | ghH j => exact quadWord_setQuadWord_of_ne _ (hr ∘ congrArg Reg.ghH)
    | _ => rfl
  | ghX i =>
    cases r' with
    | ghX j => exact quadWord_setQuadWord_of_ne _ (hr ∘ congrArg Reg.ghX)
    | _ => rfl
  | ghIn i =>
    cases r' with
    | ghIn j => exact quadWord_setQuadWord_of_ne _ (hr ∘ congrArg Reg.ghIn)
    | _ => rfl

/-- A store keeps every word of the key but the one it is made into (10_state.md R31). -/
theorem State.sm4Key_store_ne {r : Reg} (hc : r ≠ .cmd) {k : Fin 4} (hk : r ≠ .sm4Key k) :
    (s.store r v).sm4Key[k] = s.sm4Key[k] := by
  cases r with
  | cmd => exact absurd rfl hc
  | sm4Key i => exact getElem_set_of_ne _ fun h => hk (h ▸ rfl)
  | _ => rfl

end Sys2Proof.Machine
end

section
/-! PROOFS. The statements about bus accesses. -/

namespace Sys2Proof.Proofs

open Sys2Proof.Machine

/-- Settles O11: the access is carried out on the register at the offset, whose value the table `State.valueAt` has. -/
theorem idleBusReadAnswersTheRegisterMap : Obligations.IdleBusReadAnswersTheRegisterMap := by
  intro s off rest hlt ha hinf he
  rw [step_cons he, handle, busAccess_base_add hlt ha]
  exact congrArg _ (State.busRead_idle (s := s.withEvents rest) ha hlt hinf)

/-- Settles O12: whether the read is free is decided by the write set of the command in flight. -/
theorem readsInFlight : Obligations.ReadsInFlight := by
  intro s c i r rest hc hd he
  have hfree : (s.withEvents rest).readsFree r = (inWriteSet i.op r && !r.readsExactly) := State.readsFree_eq hc hd r
  rw [step_rd he]
  refine ⟨fun hw hk => ?_, ?_, fun hw => ?_⟩
  · rw [hw, Reg.readsExactly_of_inWriteSet hw hk] at hfree
    exact congrArg _ (State.busRead_free hfree)
  · rintro ⟨k, rfl⟩
    rw [Reg.readsExactly, Bool.not_true, Bool.and_false] at hfree
    exact congrArg _ (State.busRead_exact hfree)
  · rw [hw, Bool.false_and] at hfree
    exact congrArg _ (State.busRead_exact hfree)

/-- Settles O13: a read writes only the model's own fields (`State.busRead_eq`). -/
theorem busReadsHaveNoSideEffect : Obligations.BusReadsHaveNoSideEffect := by
  intro s addr rest hp he
  refine ⟨_, by rw [step_cons he, handle, busAccess_proper hp], ?_, State.busRead_events _⟩
  rw [State.busRead_eq]
  rfl

/-- Settles O15: the store shows in the register itself, in no other one, and leaves control, status and hidden state
alone. -/
theorem idleWriteStoresOneRegister : Obligations.IdleWriteStoresOneRegister := by
  intro s r v rest hb hg hc he
  have hctrl : r ≠ .ctrl := fun h => by simp [h, Reg.guarded] at hg
  have hstatus : r ≠ .status := fun h => by simp [h, Reg.guarded] at hg
  have hw : (s.withEvents rest).busWrite (some r) v = (s.withEvents rest).store r v := by simp [State.busWrite, hb]
  obtain ⟨hie, hbusy, hdone, herr, hcode, hkey, hinf, hrk, hbuf⟩ :=
    State.store_control r v (s.withEvents rest) hctrl hstatus hc
  obtain ⟨hevents, hrdata, hdraws⟩ := State.store_own r v (s.withEvents rest)
  refine ⟨_, (step_wr he).trans (congrArg _ hw), ?_, fun k hk => ?_, State.peek_store_same hg hc,
    fun r' hr => State.peek_store_ne hg hc hr, hrk, hbuf, hkey, hinf, hie, hbusy, hdone, herr, hcode, hevents, hrdata,
    hdraws⟩
  · rintro k rfl
    simp [State.store]
  · rw [State.sm4Key_store_ne hc hk]
    rfl

/-- Settles O16: neither register is guarded, and the store into each is nothing. -/
theorem readOnlyWritesAreIgnored : Obligations.ReadOnlyWritesAreIgnored := by
  rintro s r v rest (rfl | ⟨i, rfl⟩) he
  · exact step_wr he
  · exact step_wr he

/-- Settles O20: the access is inside the window, so its form decides. -/
theorem badAccessFaults : Obligations.BadAccessFaults := by
  intro s addr bytes v rest hlo hhi hbad he
  have hfault (act : Option Reg → State) : busAccess addr bytes act = .fault .busBadAccess := by
    rw [busAccess, if_neg (by unfold Config.windowSize; omega), if_pos hbad]
  exact step_of_busAccess hfault he

/-- Settles O21: the window is checked before the form of the access. -/
theorem accessOutsideTheWindowIsRefused : Obligations.AccessOutsideTheWindowIsRefused := by
  intro s addr bytes v rest hout he
  have hrefused (act : Option Reg → State) : busAccess addr bytes act = .refused .outsideWindow := if_pos hout
  exact step_of_busAccess hrefused he

end Sys2Proof.Proofs
end

section
/-! SUPPORT. The product of GF(2^128) as a product: one step of the multiplicand is linear, hence so is the product in
each operand, and the order of two multiplications does not matter (43_ghash.md R210, R211, R215). -/

namespace Sys2Proof.Machine

/-! ## Adding a block or not -/

/-- The block `v` where `b` holds, else zero: what one step adds (43_ghash.md R211). -/
def gated (b : Bool) (v : Block128) : Block128 := if b then v else 0#128

theorem gated_xor_bit (b c : Bool) (v : Block128) : gated (b ^^ c) v = gated b v ^^^ gated c v := by
  cases b <;> cases c <;> simp [gated]

theorem gated_xor (b : Bool) (v w : Block128) : gated b (v ^^^ w) = gated b v ^^^ gated b w := by
  cases b <;> simp [gated]

theorem getLsbD_gated (b : Bool) (v : Block128) (k : Nat) : (gated b v).getLsbD k = (b && v.getLsbD k) := by
  cases b <;> simp [gated]

theorem apply_gated {f : Block128 → Block128} (h0 : f 0#128 = 0#128) (b : Bool) (v : Block128) :
    f (gated b v) = gated b (f v) := by
  cases b with
  | false => exact h0
  | true => rfl

/-! ## One step of the multiplicand -/

theorem gfMulX_eq (v : Block128) : gfMulX v = v >>> 1 ^^^ gated (v.getLsbD 0) gfR := by
  unfold gfMulX gated
  split <;> simp

theorem gfMulX_xor (a b : Block128) : gfMulX (a ^^^ b) = gfMulX a ^^^ gfMulX b := by
  simp only [gfMulX_eq, BitVec.getLsbD_xor, BitVec.ushiftRight_xor_distrib, gated_xor_bit]
  ac_rfl

theorem gfMulX_zero : gfMulX 0#128 = 0#128 := by decide

theorem gfV_xor (a b : Block128) (i : Nat) : gfV (a ^^^ b) i = gfV a i ^^^ gfV b i := by
  induction i with
  | zero => rfl
  | succ i ih => rw [gfV, ih, gfMulX_xor, gfV, gfV]

theorem gfV_zero (i : Nat) : gfV 0#128 i = 0#128 := by
  induction i with
  | zero => rfl
  | succ i ih => rw [gfV, ih, gfMulX_zero]

theorem gfV_gfMulX (y : Block128) (i : Nat) : gfV (gfMulX y) i = gfMulX (gfV y i) := by
  induction i with
  | zero => rfl
  | succ i ih => rw [gfV, ih, gfV]

/-! ## The partial products -/

theorem gfZ_zero (x y : Block128) : gfZ x y 0 = 0#128 := rfl

theorem gfZ_succ (x y : Block128) (i : Nat) :
    gfZ x y (i + 1) = gfZ x y i ^^^ gated (x.getLsbD (127 - i)) (gfV y i) := by
  rw [gfZ, gated]
  split <;> simp

theorem gfZ_xor_left (a b y : Block128) (i : Nat) : gfZ (a ^^^ b) y i = gfZ a y i ^^^ gfZ b y i := by
  induction i with
  | zero => simp only [gfZ_zero, BitVec.xor_zero]
  | succ i ih =>
    simp only [gfZ_succ, ih, BitVec.getLsbD_xor, gated_xor_bit]
    ac_rfl

theorem gfZ_xor_right (x a b : Block128) (i : Nat) : gfZ x (a ^^^ b) i = gfZ x a i ^^^ gfZ x b i := by
  induction i with
  | zero => simp only [gfZ_zero, BitVec.xor_zero]
  | succ i ih =>
    simp only [gfZ_succ, ih, gfV_xor, gated_xor]
    ac_rfl

theorem gfZ_zero_left (y : Block128) (i : Nat) : gfZ 0#128 y i = 0#128 := by
  induction i with
  | zero => rfl
  | succ i ih => simp [gfZ, ih]

theorem gfZ_zero_right (x : Block128) (i : Nat) : gfZ x 0#128 i = 0#128 := by
  induction i with
  | zero => rfl
  | succ i ih => simp [gfZ, ih, gfV_zero]

/-- A linear map that commutes with every step of the multiplicand commutes with the partial products. -/
theorem gfZ_map {f : Block128 → Block128} (h0 : f 0#128 = 0#128) (hxor : ∀ a b, f (a ^^^ b) = f a ^^^ f b)
    {y z : Block128} (hstep : ∀ i, gfV z i = f (gfV y i)) (x : Block128) (i : Nat) : gfZ x z i = f (gfZ x y i) := by
  induction i with
  | zero => exact h0.symm
  | succ i ih => rw [gfZ_succ, gfZ_succ, ih, hstep, hxor, apply_gated h0]

theorem gfMul_map {f : Block128 → Block128} (h0 : f 0#128 = 0#128) (hxor : ∀ a b, f (a ^^^ b) = f a ^^^ f b)
    {y z : Block128} (hstep : ∀ i, gfV z i = f (gfV y i)) (x : Block128) : gfMul x z = f (gfMul x y) := by
  rw [gfMul_eq_gfZ, gfMul_eq_gfZ]
  exact gfZ_map h0 hxor hstep x 128

/-! ## The product -/

theorem gfMul_xor_left (x y z : Block128) : gfMul (x ^^^ y) z = gfMul x z ^^^ gfMul y z := by
  simp only [gfMul_eq_gfZ, gfZ_xor_left]

theorem gfMul_xor_right (x y z : Block128) : gfMul x (y ^^^ z) = gfMul x y ^^^ gfMul x z := by
  simp only [gfMul_eq_gfZ, gfZ_xor_right]

theorem gfMul_zero_left (x : Block128) : gfMul 0#128 x = 0#128 := (gfMul_eq_gfZ _ _).trans (gfZ_zero_left x 128)

theorem gfMul_zero_right (x : Block128) : gfMul x 0#128 = 0#128 := (gfMul_eq_gfZ _ _).trans (gfZ_zero_right x 128)

theorem gfMul_gfMulX (x y : Block128) : gfMul x (gfMulX y) = gfMulX (gfMul x y) :=
  gfMul_map gfMulX_zero gfMulX_xor (gfV_gfMulX y) x

/-- Multiplying by `x^i` before or after another multiplication is the same. -/
theorem gfV_gfMul (x y : Block128) (i : Nat) : gfV (gfMul x y) i = gfMul x (gfV y i) := by
  induction i with
  | zero => simp only [gfV]
  | succ i ih => rw [gfV, ih, gfV, gfMul_gfMulX]

/-- Of two multiplications either may be the first; commutation and association both come of it. -/
theorem gfMul_left_comm (x y z : Block128) : gfMul z (gfMul x y) = gfMul x (gfMul z y) :=
  gfMul_map (gfMul_zero_right x) (gfMul_xor_right x) (gfV_gfMul x y) z

/-! ## The identity -/

/-- The one of the field's bit order (43_ghash.md R210). -/
def gfOne : Block128 := 1#128 <<< 127

theorem gfMulX_twoPow {k : Nat} (h : k + 1 < 128) : gfMulX (BitVec.twoPow 128 (k + 1)) = BitVec.twoPow 128 k := by
  refine BitVec.eq_of_getLsbD_eq fun j hj => ?_
  have hlow : (BitVec.twoPow 128 (k + 1)).getLsbD 0 = false := by simp
  rw [gfMulX_eq, hlow, BitVec.getLsbD_xor, getLsbD_gated, BitVec.getLsbD_ushiftRight, BitVec.getLsbD_twoPow,
    BitVec.getLsbD_twoPow, Bool.false_and, Bool.xor_false, decide_eq_true h, decide_eq_true (show k < 128 by omega)]
  exact congrArg _ (decide_eq_decide.2 (by omega))

/-- `x^i` is one bit as long as nothing is reduced. -/
theorem gfV_one {i : Nat} (h : i < 128) : gfV gfOne i = BitVec.twoPow 128 (127 - i) := by
  induction i with
  | zero => rfl
  | succ i ih =>
    rw [gfV, ih (by omega), show 127 - i = 127 - (i + 1) + 1 by omega, gfMulX_twoPow (by omega)]

/-- After `i` steps the partial product by one has the top `i` bits of the other operand. -/
theorem getLsbD_gfZ_one (x : Block128) {i : Nat} (h : i ≤ 128) (k : Nat) :
    (gfZ x gfOne i).getLsbD k = (decide (128 - i ≤ k) && x.getLsbD k) := by
  induction i with
  | zero =>
    simpa [gfZ_zero] using BitVec.getLsbD_of_ge x k
  | succ i ih =>
    rw [gfZ_succ, gfV_one h, BitVec.getLsbD_xor, ih (by omega), getLsbD_gated, BitVec.getLsbD_twoPow]
    by_cases hk : k = 127 - i
    · have hnew : decide (128 - i ≤ k) = false := decide_eq_false (by omega)
      have hold : decide (128 - (i + 1) ≤ k) = true := decide_eq_true (by omega)
      have hlt : k < 128 := by omega
      rw [hnew, hold, ← hk]
      simp [hlt]
    · have hsame : decide (128 - (i + 1) ≤ k) = decide (128 - i ≤ k) := decide_eq_decide.2 (by omega)
      rw [hsame]
      simp [Ne.symm hk]

theorem gfMul_one_right (x : Block128) : gfMul x gfOne = x := by
  refine BitVec.eq_of_getLsbD_eq fun k _ => ?_
  rw [gfMul_eq_gfZ, getLsbD_gfZ_one x (Nat.le_refl 128)]
  simp

theorem gfMul_comm (x y : Block128) : gfMul x y = gfMul y x := by
  calc gfMul x y = gfMul x (gfMul y gfOne) := by rw [gfMul_one_right]
    _ = gfMul y (gfMul x gfOne) := gfMul_left_comm y gfOne x
    _ = gfMul y x := by rw [gfMul_one_right]

theorem gfMul_assoc (x y z : Block128) : gfMul (gfMul x y) z = gfMul x (gfMul y z) := by
  calc gfMul (gfMul x y) z = gfMul z (gfMul x y) := gfMul_comm _ _
    _ = gfMul x (gfMul z y) := gfMul_left_comm x y z
    _ = gfMul x (gfMul y z) := by rw [gfMul_comm z y]

end Sys2Proof.Machine
end

section
/-! PROOFS. The statements about the product of GF(2^128). -/

namespace Sys2Proof.Proofs

open Sys2Proof.Machine

/-- Settles O52: `x` and `y` are two multiplications of one. -/
theorem gfMulCommutes : Obligations.GfMulCommutes := gfMul_comm

/-- Settles O53: by `gfMul_left_comm`, once the outer product is turned round. -/
theorem gfMulAssociates : Obligations.GfMulAssociates := gfMul_assoc

/-- Settles O54: linearity in each operand is that of the partial products; the identity on the left is the one on the
right. -/
theorem gfMulDistributesWithOneAndZero : Obligations.GfMulDistributesWithOneAndZero :=
  ⟨gfMul_xor_left, gfMul_xor_right, fun x => ⟨gfMul_one_right x, (gfMul_comm _ x).trans (gfMul_one_right x)⟩,
    fun x => ⟨gfMul_zero_right x, gfMul_zero_left x⟩⟩

end Sys2Proof.Proofs
end

section
/-! SUPPORT. The stream path in closed form: a byte string that stays inside the block, one that fills it, and the
message, padding and prefix bytes of the commands as such strings (42_sm3.md R178 to R183, R188). -/

namespace Sys2Proof.Machine

variable {s : State}

/-- The byte buffer with the string `bs` put in from place `f` on (42_sm3.md R178). -/
def bufferWith (buf : Vector Byte 64) (f : Nat) (bs : List Byte) : Vector Byte 64 :=
  Vector.ofFn fun k : Fin 64 => if f ≤ k.val ∧ k.val < f + bs.length then bs.getD (k - f) 0#8 else buf[k]

theorem getElem_bufferWith (buf : Vector Byte 64) (f : Nat) (bs : List Byte) {k : Nat} (hk : k < 64) :
    (bufferWith buf f bs)[k] = if f ≤ k ∧ k < f + bs.length then bs.getD (k - f) 0#8 else buf[k] := by
  simp [bufferWith]

theorem bufferWith_nil (buf : Vector Byte 64) (f : Nat) : bufferWith buf f [] = buf := by
  ext1 k hk
  rw [getElem_bufferWith, if_neg (by rw [List.length_nil]; omega)]

/-- The next byte goes right after the string. -/
theorem setIfInBounds_bufferWith (buf : Vector Byte 64) (f : Nat) (bs : List Byte) (b : Byte) :
    (bufferWith buf f bs).setIfInBounds (f + bs.length) b = bufferWith buf f (bs ++ [b]) := by
  ext1 k hk
  rw [Vector.getElem_setIfInBounds, getElem_bufferWith, getElem_bufferWith, List.length_append, List.length_singleton]
  by_cases hlast : f + bs.length = k
  · rw [if_pos hlast, if_pos (by omega), List.getD_append_right _ _ _ _ (by omega),
      show k - f - bs.length = 0 by omega, List.getD_cons_zero]
  · rw [if_neg hlast]
    by_cases hin : f ≤ k ∧ k < f + bs.length
    · rw [if_pos hin, if_pos (by omega), List.getD_append _ _ _ _ (by omega)]
    · rw [if_neg hin, if_neg (by omega)]

/-- A block filled up from place `f` on: the bytes before it, and then the string (42_sm3.md R178). -/
theorem toList_bufferWith {buf : Vector Byte 64} {f : Nat} {bs : List Byte} (h : f + bs.length = 64) :
    (bufferWith buf f bs).toList = buf.toList.take f ++ bs := by
  refine List.ext_getElem (by simp; omega) fun k hk _ => ?_
  rw [Vector.length_toList] at hk
  rw [Vector.getElem_toList, getElem_bufferWith]
  by_cases hf : k < f
  · rw [if_neg (by omega), List.getElem_append_left (by simp; omega), List.getElem_take, Vector.getElem_toList]
  · rw [if_pos (by omega), List.getElem_append_right (by simp; omega), List.getD_eq_getElem _ _ (by omega)]
    simp [show min f 64 = f by omega]

namespace HashState

variable {h : HashState} {bs : List Byte}

theorem fill_lt : h.fill < 64 := Nat.mod_lt _ (by decide)

theorem fill_add (v : Vector Word 8) (n : Nat) (buf : Vector Byte 64) :
    HashState.fill ⟨v, h.cnt + BitVec.ofNat 64 n, buf⟩ = (h.fill + n) % 64 := by
  simp only [HashState.fill, BitVec.toNat_add, BitVec.toNat_ofNat]
  omega

theorem absorbAll_concat (b : Byte) : h.absorbAll (bs ++ [b]) = (h.absorbAll bs).absorb b := absorbAll_append bs [b]

theorem cnt_add_length_concat (b : Byte) :
    h.cnt + BitVec.ofNat 64 bs.length + 1#64 = h.cnt + BitVec.ofNat 64 (bs ++ [b]).length := by
  rw [List.length_append, List.length_singleton, BitVec.ofNat_add, BitVec.add_assoc]

/-- Bytes that do not fill the block are buffered (42_sm3.md R178). -/
theorem absorbAll_of_lt (hlt : h.fill + bs.length < 64) :
    h.absorbAll bs = ⟨h.v, h.cnt + BitVec.ofNat 64 bs.length, bufferWith h.buf h.fill bs⟩ := by
  induction bs using List.reverseRecOn with
  | nil => simp [absorbAll, bufferWith_nil]
  | append_singleton bs b ih =>
    rw [List.length_append, List.length_singleton] at hlt
    rw [absorbAll_concat, ih (by omega), HashState.absorb, fill_add, Nat.mod_eq_of_lt (by omega), if_neg (by omega),
      setIfInBounds_bufferWith, cnt_add_length_concat]

/-- Bytes that just fill the block are compressed with what was buffered before them (42_sm3.md R178). -/
theorem absorbAll_of_eq (heq : h.fill + bs.length = 64) :
    h.absorbAll bs = ⟨cf h.v (h.buf.toList.take h.fill ++ bs), h.cnt + BitVec.ofNat 64 bs.length,
      Vector.replicate 64 0#8⟩ := by
  have hfill := h.fill_lt
  obtain rfl | ⟨bs, b, rfl⟩ := bs.eq_nil_or_concat'
  · simp at heq
    omega
  · have hblock := toList_bufferWith (buf := h.buf) heq
    rw [List.length_append, List.length_singleton] at heq
    rw [absorbAll_concat, absorbAll_of_lt (by omega), HashState.absorb, fill_add, Nat.mod_eq_of_lt (by omega),
      if_pos (by omega), setIfInBounds_bufferWith, hblock, cnt_add_length_concat]

/-- Bytes that reach the end of the block: one compression, and the rest goes on from a cleared buffer
(42_sm3.md R178, R182). -/
theorem absorbAll_of_le (hle : 64 ≤ h.fill + bs.length) :
    h.absorbAll bs = HashState.absorbAll ⟨cf h.v (h.buf.toList.take h.fill ++ bs.take (64 - h.fill)),
      h.cnt + BitVec.ofNat 64 (64 - h.fill), Vector.replicate 64 0#8⟩ (bs.drop (64 - h.fill)) := by
  have hfill := h.fill_lt
  have hlen : (bs.take (64 - h.fill)).length = 64 - h.fill := List.length_take_of_le (by omega)
  have hfirst := absorbAll_of_eq (h := h) (bs := bs.take (64 - h.fill)) (by omega)
  rw [hlen] at hfirst
  rw [← hfirst, ← absorbAll_append, List.take_append_drop]

/-- After that compression the fill level is 0. -/
theorem fill_block_end (v : Vector Word 8) (buf : Vector Byte 64) :
    HashState.fill ⟨v, h.cnt + BitVec.ofNat 64 (64 - h.fill), buf⟩ = 0 := by
  have hfill := h.fill_lt
  rw [fill_add, Nat.add_sub_of_le (by omega)]

/-- CNT over the two parts of a string cut at the end of the block. -/
theorem cnt_add_parts (hle : 64 ≤ h.fill + bs.length) :
    h.cnt + BitVec.ofNat 64 (64 - h.fill) + BitVec.ofNat 64 (bs.drop (64 - h.fill)).length =
      h.cnt + BitVec.ofNat 64 bs.length := by
  rw [List.length_drop, BitVec.add_assoc, ← BitVec.ofNat_add, Nat.add_sub_of_le (by omega)]

/-- SM3_UPDATE's case: what is left after the compression does not fill the next block (42_sm3.md R182). -/
theorem absorbAll_of_wrap (hle : 64 ≤ h.fill + bs.length) (hlt : h.fill + bs.length < 128) :
    h.absorbAll bs = ⟨cf h.v (h.buf.toList.take h.fill ++ bs.take (64 - h.fill)), h.cnt + BitVec.ofNat 64 bs.length,
      bufferWith (Vector.replicate 64 0#8) 0 (bs.drop (64 - h.fill))⟩ := by
  rw [absorbAll_of_le hle, absorbAll_of_lt (by rw [fill_block_end, List.length_drop]; omega), cnt_add_parts hle,
    fill_block_end]

/-- SM3_FINAL's longer case: what is left fills the next block (42_sm3.md R183). -/
theorem absorbAll_of_two_blocks (heq : h.fill + bs.length = 128) :
    h.absorbAll bs = ⟨cf (cf h.v (h.buf.toList.take h.fill ++ bs.take (64 - h.fill))) (bs.drop (64 - h.fill)),
      h.cnt + BitVec.ofNat 64 bs.length, Vector.replicate 64 0#8⟩ := by
  have hfill := h.fill_lt
  have hle : 64 ≤ h.fill + bs.length := by omega
  rw [absorbAll_of_le hle, absorbAll_of_eq (by rw [fill_block_end, List.length_drop]; omega), cnt_add_parts hle,
    fill_block_end, List.take_zero, List.nil_append]

/-- SM3_FINAL in closed form: one compression or two, by the room left for the padding (42_sm3.md R179, R183). -/
theorem final_eq (h : HashState) : h.final =
    ⟨if h.fill ≤ 55 then cf h.v (h.buf.toList.take h.fill ++ pad h.cnt)
      else cf (cf h.v ((h.buf.toList.take h.fill ++ pad h.cnt).take 64))
        ((h.buf.toList.take h.fill ++ pad h.cnt).drop 64),
      h.cnt + BitVec.ofNat 64 (pad h.cnt).length, Vector.replicate 64 0#8⟩ := by
  have hfill := h.fill_lt
  have hpad : (pad h.cnt).length = 9 + (119 - h.fill) % 64 := length_pad h.cnt
  have htail : (h.buf.toList.take h.fill).length = h.fill := by simp; omega
  rw [HashState.final]
  split
  · exact absorbAll_of_eq (by omega)
  · rw [List.take_append, List.drop_append, htail, List.take_of_length_le (l := h.buf.toList.take h.fill) (by omega),
      List.drop_eq_nil_of_le (as := h.buf.toList.take h.fill) (by omega), List.nil_append]
    exact absorbAll_of_two_blocks (by omega)

/-- SM3_FINAL after the bytes `m`: their digest, the count with the padding, a cleared buffer (42_sm3.md R183, R185). -/
theorem Absorbed.final_eq {m : List Byte} (hm : h.Absorbed m) :
    h.final = ⟨sm3 m, BitVec.ofNat 64 (padded m).length, Vector.replicate 64 0#8⟩ := by
  have hcnt : h.final.cnt = BitVec.ofNat 64 (padded m).length := by
    rw [HashState.final, hm.cnt_eq]
    exact (hm.absorbAll _).cnt_eq
  have hbuf : h.final.buf = Vector.replicate 64 0#8 := by rw [HashState.final_eq]
  rw [← hm.v_final, ← hcnt, ← hbuf]

/-- SM3_INIT in closed form: no prefix fills the block (42_sm3.md R181). -/
theorem init_eq (p : Pfx) : HashState.init p =
    ⟨sm3IV, if p = .plain then 0#64 else 1#64,
      Vector.ofFn fun k : Fin 64 => if k.val = 0 ∧ p = .node then 0x01#8 else 0x00#8⟩ := by
  cases p <;> decide

end HashState

/-! ## The message bytes as a string -/

/-- `MSGBYTE(k)` of the window's words (42_sm3.md R180). -/
theorem State.msgByte_eq (k : Nat) :
    s.msgByte k = (s.sm3Msg.toList.getD (k / 4) 0#32).extractLsb' (24 - 8 * (k % 4)) 8 := by
  simp [State.msgByte, byteOf]

theorem State.getD_msgBytes {n k : Nat} (h : k < n) : (s.msgBytes n).getD k 0#8 = s.msgByte k := by
  simp [State.msgBytes, h]

theorem State.take_msgBytes {m n : Nat} (h : m ≤ n) : (s.msgBytes n).take m = s.msgBytes m := by
  rw [State.msgBytes, ← List.map_take, List.take_range, Nat.min_eq_left h, State.msgBytes]

theorem State.getD_drop_msgBytes {m n k : Nat} (h : m + k < n) :
    ((s.msgBytes n).drop m).getD k 0#8 = s.msgByte (m + k) := by
  rw [List.getD_eq_getElem?_getD, List.getElem?_drop, ← List.getD_eq_getElem?_getD, State.getD_msgBytes h]

/-- A block of buffered bytes and message bytes, by its places (42_sm3.md R182). -/
theorem State.buffered_append_msgBytes (buf : Vector Byte 64) {f : Nat} (h : f < 64) :
    buf.toList.take f ++ s.msgBytes (64 - f) =
      (List.range 64).map fun k => if k < f then buf.toList.getD k 0#8 else s.msgByte (k - f) := by
  refine List.ext_getElem (by simp; omega) fun k hk hk' => ?_
  have hlt : k < 64 := by simpa using hk'
  rw [List.getElem_map, List.getElem_range]
  split
  · rw [List.getElem_append_left (by simp; omega), List.getElem_take, List.getD_eq_getElem _ _ (by simpa using hlt)]
  · rw [List.getElem_append_right (by simp; omega)]
    simp [State.msgBytes, show min f 64 = f by omega]

theorem State.bufferWith_msgBytes (buf : Vector Byte 64) (f n : Nat) : bufferWith buf f (s.msgBytes n) =
    Vector.ofFn fun k : Fin 64 => if f ≤ k.val ∧ k.val < f + n then s.msgByte (k - f) else buf[k] := by
  ext1 k hk
  rw [getElem_bufferWith, Vector.getElem_ofFn, State.length_msgBytes]
  exact ite_congr rfl (fun (hin : f ≤ k ∧ k < f + n) => State.getD_msgBytes (by omega)) fun _ => rfl

/-- The message bytes after the first `64 - f`, from the start of a cleared buffer. -/
theorem State.bufferWith_drop_msgBytes {f : Nat} (n : Nat) (hf : f ≤ 64) :
    bufferWith (Vector.replicate 64 0#8) 0 ((s.msgBytes n).drop (64 - f)) =
      Vector.ofFn fun k : Fin 64 => if k.val + 64 < f + n then s.msgByte (k + 64 - f) else 0x00#8 := by
  ext1 k hk
  rw [getElem_bufferWith, Vector.getElem_ofFn, List.length_drop, State.length_msgBytes, Vector.getElem_replicate]
  by_cases hin : k + 64 < f + n
  · rw [if_pos (by omega), if_pos hin, State.getD_drop_msgBytes (by omega)]
    exact congrArg s.msgByte (show 64 - f + (k - 0) = k + 64 - f by omega)
  · rw [if_neg (by omega), if_neg hin]

/-- SM3_UPDATE's stream state in closed form (42_sm3.md R182). -/
theorem State.absorbAll_msgBytes {n : Nat} (hn : n ≤ 64) : s.hash.absorbAll (s.msgBytes n) =
    if s.hash.fill + n < 64 then ⟨s.sm3V, s.cnt + BitVec.ofNat 64 n, bufferWith s.buf s.hash.fill (s.msgBytes n)⟩
    else ⟨cf s.sm3V (s.buf.toList.take s.hash.fill ++ s.msgBytes (64 - s.hash.fill)), s.cnt + BitVec.ofNat 64 n,
      bufferWith (Vector.replicate 64 0#8) 0 ((s.msgBytes n).drop (64 - s.hash.fill))⟩ := by
  have hfill := s.hash.fill_lt
  have hlen : (s.msgBytes n).length = n := State.length_msgBytes n
  split
  · rw [HashState.absorbAll_of_lt (by omega), hlen]
    rfl
  · rw [HashState.absorbAll_of_wrap (by omega) (by omega), hlen, State.take_msgBytes (by omega)]
    rfl

/-- The window is the bytes of the left half and those of the right (44_merkle.md R233). -/
theorem State.msgBytes_eq_halves :
    s.msgBytes 64 = bytesOf (s.sm3Msg.toList.take 8) ++ bytesOf (s.sm3Msg.toList.drop 8) := by
  rw [State.msgBytes_eq_bytesOf, bytesOf, bytesOf, bytesOf, ← List.flatMap_append, List.take_append_drop]

end Sys2Proof.Machine
end

section
/-! PROOFS. The statements about the SM3 stream. -/

namespace Sys2Proof.Proofs

open Sys2Proof.Machine

/-- Settles O42: the closed form of the stream state SM3_INIT leaves. -/
theorem hashInitLoadsTheIv : Obligations.HashInitLoadsTheIv := by
  intro s p
  rw [exec_sm3Init, HashState.init_eq]
  rfl

/-- Settles O43: whether the bytes reach the end of the block decides between the two closed forms, whose buffer is then
compared place by place. -/
theorem hashUpdateFillsAndCompressesOnce : Obligations.HashUpdateFillsAndCompressesOnce := by
  intro s n h1 h64 f msg
  have hf : f < 64 := s.hash.fill_lt
  have hfill : s.hash.fill = f := rfl
  have hmsg : msg = s.msgByte := funext fun k => (State.msgByte_eq k).symm
  have hcnt : BitVec.ofNat 64 n.toNat = n.setWidth 64 := BitVec.ofNat_toNat 64 n
  rw [exec_sm3Update, State.absorbAll_msgBytes h64, hfill, hcnt, hmsg]
  by_cases hin : f + n.toNat < 64
  · simp only [if_pos hin, State.bufferWith_msgBytes]
    rfl
  · simp only [if_neg hin, State.buffered_append_msgBytes s.buf hf, State.bufferWith_drop_msgBytes n.toNat hf.le]
    rfl

/-- Settles O45: the closed form of the stream state SM3_FINAL leaves. -/
theorem hashFinalCompressesTheTail : Obligations.HashFinalCompressesTheTail := by
  intro s f tail
  rw [exec_sm3Final, HashState.final_eq]
  rfl

/-- Settles O47: the stream state has absorbed the prefix and the window when SM3_FINAL's part comes, whatever it was
before. -/
theorem merkleNodeHashesBothChildren : Obligations.MerkleNodeHashesBothChildren := by
  intro s
  have hlen : (pfxBytes .node ++ s.msgBytes 64).length = 65 := by
    rw [List.length_append, State.length_msgBytes]
    rfl
  have hpadded : (padded (pfxBytes .node ++ s.msgBytes 64)).length = 128 := by
    rw [padded, List.length_append, length_pad, hlen]
    rfl
  rw [exec_merkleNode, ((HashState.absorbed_init .node).absorbAll (s.msgBytes 64)).final_eq, hpadded,
    State.msgBytes_eq_halves]
  rfl

end Sys2Proof.Proofs
end

section
/-! SUPPORT. The inverse of the S-box and the zero-padded GHASH block (41_sm4.md R130, 43_ghash.md R213). -/

namespace Sys2Proof.Machine

/-! ## The S-box -/

/-- The inverse table, laid out as `sboxRows` is (41_sm4.md R130). -/
def sboxInvRows : List Block128 :=
  [0x716C7AB8160F1E4135EBD02AE4AC625A#128, 0xCDC8DB1A0A8E0846F04B96C132A060CC#128,
   0xF76D69AA61681B760CA914100ED8A3B7#128, 0x9BD29A28955F79B286FEF46B4A06FB3E#128,
   0x84CB212B19B37240FF1CE35B78F6AE4E#128, 0x22BF77AD29975D736549CEBECA9263FA#128,
   0xA78D2F6455E8A51150E1BA51BDBCEDAF#128, 0x5C54BB45D93C13E66EF827D66AF2E7C7#128,
   0x3852A448EF4D1D6FD3E082579DC0B63D#128, 0x0124C3993A37E5E2261F1294205E7F74#128,
   0x7C8F678893D43F424F3318AB2E9891C2#128, 0xDF9E5331DE870907DCE947C4C6D71581#128,
   0xA8D10B177DECEE857E34A6FD04D58B2D#128, 0xDA66837570B000FCCFC956B1F5C5B439#128,
   0x9005A29F30DD4C7B36028059F32CF925#128, 0xF1EA8A44239CA189588C3B0D43B503B9#128]

/-- The byte whose S-box entry is `c`. -/
def sboxInv (c : Byte) : Byte := blockByte (sboxInvRows.getD (c.toNat / 16) 0#128) (c.toNat % 16)

theorem sbox_sboxInv : ∀ c : Byte, sbox (sboxInv c) = c := by decide +kernel

theorem sboxInv_sbox : ∀ a : Byte, sboxInv (sbox a) = a := by decide +kernel

/-! ## The padded block -/

theorem getLsbD_keepBytes (n : Nat) (y : Block128) {j : Nat} (hj : j < 128) :
    (keepBytes n y).getLsbD j = (decide (8 * (16 - n) ≤ j) && y.getLsbD j) := by
  rw [keepBytes, BitVec.getLsbD_shiftLeft, BitVec.getLsbD_ushiftRight, decide_eq_true hj, Bool.true_and]
  by_cases h : 8 * (16 - n) ≤ j
  · rw [decide_eq_true h, decide_eq_false (by omega), Nat.add_sub_of_le h, Bool.not_false]
  · rw [decide_eq_false h, decide_eq_true (by omega), Bool.not_true, Bool.false_and, Bool.false_and]

/-- The first `n` bytes are the block's, the others 0 (43_ghash.md R213). -/
theorem extractLsb'_keepBytes (n : Nat) (y : Block128) {k : Nat} (hk : k < 16) :
    (keepBytes n y).extractLsb' (120 - 8 * k) 8 = if k < n then y.extractLsb' (120 - 8 * k) 8 else 0x00#8 := by
  refine BitVec.eq_of_getLsbD_eq fun j hj => ?_
  rw [BitVec.getLsbD_extractLsb', getLsbD_keepBytes n y (by omega), decide_eq_true hj, Bool.true_and]
  by_cases h : k < n
  · rw [if_pos h, decide_eq_true (by omega), BitVec.getLsbD_extractLsb', decide_eq_true hj]
  · rw [if_neg h, decide_eq_false (by omega), Bool.false_and, BitVec.getLsbD_zero]

end Sys2Proof.Machine
end

section
/-! SUPPORT. What a completion leaves unchanged, register by register, and what it does not read: STATUS and the model's
own fields (40_system.md R105, R106, R108). -/

namespace Sys2Proof.Machine

variable {s t u : State} {i : Instr} {v : Word} {rest : List Event}

/-- Only ZEROIZE has the operand registers in its write set (40_system.md R108). -/
theorem exec_operands (h : exec i s = .next t) (hz : i ≠ .zeroize) :
    t.sm4Key = s.sm4Key ∧ t.sm4Din = s.sm4Din ∧ t.sm3Msg = s.sm3Msg ∧ t.ghH = s.ghH ∧ t.ghIn = s.ghIn := by
  cases i with
  | zeroize => exact absurd rfl hz
  | _ =>
    injection h with h
    simp [← h]

/-- A register outside the write set reads as before; STATUS reads the bits every completion writes (40_system.md
R106, R108). -/
theorem exec_peek (h : exec i s = .next t) {r : Reg} (hr : r ≠ .status) (hw : inWriteSet i.op r = false) :
    t.peek r = s.peek r := by
  cases r with
  | status => exact absurd rfl hr
  | id | cmd | sm4Key _ => rfl
  | ctrl =>
    obtain ⟨-, -, -, hie, -⟩ := exec_next h
    simp only [State.peek, State.ctrlWord, hie]
  | _ =>
    -- a data register: either the command has it in its write set, against `hw`, or leaves its field alone
    cases i with
    | _ =>
      injection h with h
      simp_all [State.peek, inWriteSet, Instr.op, ← h]

/-! ## What a completion does not read -/

theorem State.msgBytes_data (n : Nat) : s.data.msgBytes n = s.msgBytes n := rfl

/-- A completion takes the key and data state alone to the key and data state of its result (40_system.md R105). -/
theorem exec_data (h : exec i s = .next t) : ∃ w, exec i s.data = .next w ∧ w.data = t.data := by
  cases i with
  | sm3Update n =>
    cases h
    refine ⟨_, exec_sm3Update n s.data, ?_⟩
    rw [State.msgBytes_data]
    rfl
  | _ =>
    cases h
    exact ⟨_, rfl, rfl⟩

/-- States with the same key and data state complete to states with the same (40_system.md R105). -/
theorem exec_data_congr {s' t' : State} (h : exec i s = .next t) (h' : exec i s' = .next t') (hd : s'.data = s.data) :
    t'.data = t.data := by
  obtain ⟨w, hw, hwt⟩ := exec_data h
  obtain ⟨w', hw', hwt'⟩ := exec_data h'
  rw [hd, hw] at hw'
  cases hw'
  rw [← hwt, ← hwt']

/-! ## Accesses in flight -/

/-- `t` has the key and data state of `s` and the same command in flight; it may differ in CTRL, DONE, ERR and ERRCODE
and in the model's own fields. -/
structure State.SameCommand (s t : State) : Prop where
  data : t.data = s.data
  busy : t.busy = s.busy
  inflight : t.inflight = s.inflight

theorem State.sameCommand_busRead (r : Option Reg) : s.SameCommand (s.busRead r) := by
  rw [State.busRead_eq]
  exact ⟨rfl, rfl, rfl⟩

/-- While busy a bus write is dropped or is one of those that change no key and no data (40_system.md R102). -/
theorem State.sameCommand_busWrite (hb : s.busy = true) (r : Option Reg) : s.SameCommand (s.busWrite r v) := by
  obtain ⟨-, hw⟩ | ⟨g, -, -, -, hw⟩ | ⟨g, -, hg, hw⟩ := State.busWrite_cases r v s
  · rw [hw]
    exact ⟨rfl, rfl, rfl⟩
  · rw [hw, State.raiseError_eq]
    exact ⟨rfl, rfl, rfl⟩
  · rw [hw]
    cases g with
    | id | ctrl | status | sm4Dout _ => exact ⟨rfl, rfl, rfl⟩
    | _ => exact absurd ⟨rfl, hb⟩ hg

/-- A proper access while busy is answered and keeps the command and its operands (40_system.md R101, R102). -/
theorem step_access_busy {e : Event} (he : s.events = e :: rest) (ha : e.isAccess = true) (hp : e.proper)
    (hb : s.busy = true) : ∃ t, step s = .next t ∧ s.SameCommand t ∧ t.events = rest := by
  rw [step_cons he]
  have keep {t : State} (h : (s.withEvents rest).SameCommand t) : s.SameCommand t := ⟨h.data, h.busy, h.inflight⟩
  cases e with
  | read addr bytes =>
    exact ⟨_, by rw [handle, busAccess_proper hp], keep (State.sameCommand_busRead _), State.busRead_events _⟩
  | write addr bytes v =>
    exact ⟨_, by rw [handle, busAccess_proper hp], keep (State.sameCommand_busWrite (s := s.withEvents rest) hb _),
      State.busWrite_events _⟩
  | complete | reset => cases ha

/-- Any number of proper accesses while busy. -/
theorem run_accesses_busy {es : List Event} (he : s.events = es ++ rest) (ha : ∀ e ∈ es, e.isAccess = true ∧ e.proper)
    (hb : s.busy = true) : ∃ t, Host.Core.run core es.length s = .next t ∧ s.SameCommand t ∧ t.events = rest := by
  induction es generalizing s with
  | nil => exact ⟨s, rfl, ⟨rfl, rfl, rfl⟩, he⟩
  | cons e es ih =>
    obtain ⟨⟨hacc, hp⟩, hes⟩ := List.forall_mem_cons.1 ha
    obtain ⟨t, ht, hst, hevents⟩ := step_access_busy he hacc hp hb
    obtain ⟨u, hu, htu, hend⟩ := ih hevents hes (hst.busy.trans hb)
    exact ⟨u, (run_succ _ ht).trans hu, ⟨htu.data.trans hst.data, htu.busy.trans hst.busy,
      htu.inflight.trans hst.inflight⟩, hend⟩

end Sys2Proof.Machine
end

section
/-! SUPPORT. The secrets, `SM4_KEY`, `RK` and `BUF`, are read by no host access: an access on the state without them
gives what the access gives, without them (10_state.md R31, R34, R44). -/

namespace Sys2Proof.Machine

variable {s s' t : State} {v w : Word}

theorem State.withoutSecrets_withoutSecrets : s.withoutSecrets.withoutSecrets = s.withoutSecrets := rfl

theorem State.busRead_withoutSecrets (r : Option Reg) : s.withoutSecrets.busRead r = (s.busRead r).withoutSecrets := by
  cases r with
  | none => rfl
  | some r =>
    have hfree : s.withoutSecrets.readsFree r = s.readsFree r := rfl
    have hpeek : s.withoutSecrets.peek r = s.peek r := by cases r <;> rfl
    simp only [State.busRead, hfree, hpeek]
    split <;> rfl

theorem State.raiseError_withoutSecrets (e : ErrorKind) :
    s.withoutSecrets.raiseError e = (s.raiseError e).withoutSecrets := by
  rw [State.raiseError_eq, State.raiseError_eq]
  rfl

theorem State.reject_withoutSecrets (e : ErrorKind) : s.withoutSecrets.reject e = (s.reject e).withoutSecrets := by
  rw [State.reject_eq, State.reject_eq]
  rfl

theorem State.issue_withoutSecrets : s.withoutSecrets.issue w = (s.issue w).withoutSecrets := by
  have hkey : s.withoutSecrets.keyValid = s.keyValid := rfl
  unfold State.issue
  split
  · exact State.reject_withoutSecrets _
  · exact State.reject_withoutSecrets _
  · rw [hkey]
    split
    · exact State.reject_withoutSecrets _
    · rfl

/-- Only a store into the key touches a secret, and it writes no other field. -/
theorem State.store_withoutSecrets (r : Reg) :
    (s.withoutSecrets.store r v).withoutSecrets = (s.store r v).withoutSecrets := by
  cases r with
  | cmd =>
    rw [State.store, State.issue_withoutSecrets, State.withoutSecrets_withoutSecrets, State.store]
  | _ => rfl

theorem State.busWrite_withoutSecrets (r : Option Reg) :
    (s.withoutSecrets.busWrite r v).withoutSecrets = (s.busWrite r v).withoutSecrets := by
  cases r with
  | none => rfl
  | some r =>
    have hbusy : s.withoutSecrets.busy = s.busy := rfl
    simp only [State.busWrite, hbusy]
    split
    · rw [State.raiseError_withoutSecrets, State.withoutSecrets_withoutSecrets]
    · exact State.store_withoutSecrets r

theorem State.busRead_withoutSecrets_congr (h : s.withoutSecrets = s'.withoutSecrets) (r : Option Reg) :
    (s'.busRead r).withoutSecrets = (s.busRead r).withoutSecrets := by
  rw [← State.busRead_withoutSecrets, ← h, State.busRead_withoutSecrets]

theorem State.busWrite_withoutSecrets_congr (h : s.withoutSecrets = s'.withoutSecrets) (r : Option Reg) :
    (s'.busWrite r v).withoutSecrets = (s.busWrite r v).withoutSecrets := by
  rw [← State.busWrite_withoutSecrets, ← h, State.busWrite_withoutSecrets]

/-- An access on two states alike but for the secrets, whatever the access does to each of them alike. -/
theorem busAccess_withoutSecrets_congr {addr bytes : Nat} {act act' : Option Reg → State}
    (hact : ∀ r, (act' r).withoutSecrets = (act r).withoutSecrets) (h : busAccess addr bytes act = .next t) :
    ∃ t', busAccess addr bytes act' = .next t' ∧ t'.withoutSecrets = t.withoutSecrets := by
  obtain ⟨hp, rfl⟩ := busAccess_next h
  exact ⟨_, busAccess_proper hp, hact _⟩

end Sys2Proof.Machine
end

section
/-! PROOFS. The statements about data and about the whole machine. -/

namespace Sys2Proof.Proofs

open Sys2Proof.Machine

/-- Settles O36: the inverse table undoes the S-box on either side. -/
theorem sboxIsAPermutation : Obligations.SboxIsAPermutation :=
  ⟨fun _ _ h => Function.LeftInverse.injective sboxInv_sbox h, fun c => ⟨sboxInv c, sbox_sboxInv c⟩⟩

/-- Settles O51: the padded block is `keepBytes` of IN. -/
theorem ghashUpdateZeroPadsTheBlock : Obligations.GhashUpdateZeroPadsTheBlock :=
  fun s n _ _ => ⟨keepBytes n.toNat s.ghIn, fun _ hk => extractLsb'_keepBytes _ _ hk, exec_ghashUpdate n s⟩

/-- Settles O56: `exec_next` for what every completion leaves, one lemma a register for what its command does not
write. -/
theorem completionChangesOnlyItsWriteSet : Obligations.CompletionChangesOnlyItsWriteSet := by
  intro i s
  obtain ⟨u, hu, -⟩ := exec_eq_finish i s
  obtain ⟨hinf, hbusy, hdone, hie, herr, hcode, hevents, hrdata, hdraws⟩ := exec_next hu
  exact ⟨_, hu, fun r hr hw => exec_peek hu hr hw, fun hz => (exec_operands hu hz).1,
    fun hz hk => ⟨exec_rk hu hk hz, exec_keyValid hu hk hz⟩, exec_buf hu, hinf, hbusy, hdone, herr, hcode, hie, hevents,
    hrdata, hdraws⟩

/-- Settles O57: each access sees and changes the state as if the secrets were not there. -/
theorem hostAccessesDoNotRevealSecrets : Obligations.HostAccessesDoNotRevealSecrets := by
  intro s s' t e rest hsec hacc _ he h
  have hevents : s'.events = s.events := (congrArg State.events hsec).symm
  have hrest : (s.withEvents rest).withoutSecrets = (s'.withEvents rest).withoutSecrets :=
    congrArg (State.withEvents rest) hsec
  rw [step_cons he] at h
  rw [step_cons (hevents.trans he)]
  cases e with
  | read addr bytes => exact busAccess_withoutSecrets_congr (State.busRead_withoutSecrets_congr hrest) h
  | write addr bytes v => exact busAccess_withoutSecrets_congr (State.busWrite_withoutSecrets_congr hrest) h
  | complete | reset => cases hacc

/-- Settles O58: the accesses keep the command in flight and the key and data state, which is all a completion reads. -/
theorem resultDoesNotDependOnCompletionTime : Obligations.ResultDoesNotDependOnCompletionTime := by
  intro s u c i es rest hinf hb hd hes he hu
  obtain ⟨m, hm, hsame, hevents⟩ := run_accesses_busy he hes hb
  obtain ⟨x, hx, -⟩ := exec_eq_finish i (m.withEvents rest)
  have hstep : step m = .next x.finish := by
    rw [step_complete hevents, engineStep_instr (s := m.withEvents rest) (hsame.inflight.trans hinf) hd, hx]
  obtain ⟨-, hbusy, hdone, -, -, -, hrest, -, -⟩ := exec_next hx
  exact ⟨_, (run_add 1 hm).trans (run_succ 0 hstep), exec_data_congr hu hx hsame.data, hbusy, hdone, hrest⟩

end Sys2Proof.Proofs
end
